-- ==== Sys2Proof/Word.lean ====
section
/-! DEFINITION. The one data width of the block: every value on the host port and on the wire is an
unsigned 8-bit byte (00_scope.md R12, R14). -/

namespace Sys2Proof

/-- An unsigned byte (R12). `+` on it is addition modulo 256, `&&&`, `|||`, `~~~`, `<<<` and `>>>` are
the byte's AND, OR, NOT and logical shifts (R14). -/
abbrev Byte := BitVec 8

end Sys2Proof
end

