-- ==== Sys2Proof/Config.lean ====
section
/-! DEFINITION. What one implementation fixes: the constants of 00_scope.md R9, the construction parameters of R11
(the chip's opcodes, register addresses and field positions among them) and the values no rule fixes (free values,
no body). -/

namespace Sys2Proof

namespace Config

/-- Number of pipes, `N_PIPES` (R9). -/
abbrev nPipes : Nat := 6

/-- Largest channel, `CH_MAX` (R9). -/
abbrev chMax : Nat := 127

/-- Largest payload and packet size, `PAYLOAD_MAX` (R9). -/
abbrev payloadMax : Nat := 32

/-- Entries of the reference chip's RX and TX FIFO (20_memory.md R107). -/
abbrev fifoDepth : Nat := 3

/-- `T_CE_HOLD`, the least time SEND holds chip-enable high (42_transmit_receive.md R233): open (R11). -/
opaque tCeHold : Nat

/-- `T_CE_HOLD_MAX`, the bound on that hold (R233): open (R11). -/
opaque tCeHoldMax : Nat

/-- `T_INIT_SETTLE`, INIT's settle delay (70_reset_and_hazards.md R376): open (R11). -/
opaque tInitSettle : Nat

/-- Free value: the byte a transaction returns where the spec says "any value" (20_memory.md R108, R111),
applied to the plain counter `State.free` (log entry 10). -/
opaque freeByte : Nat → Byte

/-- Free value: how many bytes a read of an address of no register of 10_state.md R50 asks for; no rule gives
such a register a width (log entry 9). -/
opaque freeWidth : BitVec 5 → Nat

/-- Free value: the TX FIFO's content after a write to a full TX FIFO (20_memory.md R112: "the model takes
any TX FIFO content"), applied to `State.free` (log entry 11). -/
opaque freeTxFifo : Nat → List (List Byte)

end Config

/-- The two delays the block knows by name (60_exceptions.md R332). -/
inductive DelayName where
  /-- `T_CE_HOLD`, in SEND (42_transmit_receive.md R233). -/
  | ceHold
  /-- `T_INIT_SETTLE`, in INIT (41_device_config.md R192). -/
  | initSettle
deriving DecidableEq, Repr

/-- The least length of a delay; the model has no time and only records the event (R16, R377). -/
def DelayName.atLeast : DelayName → Nat
  | .ceHold => Config.tCeHold
  | .initSettle => Config.tInitSettle

/-- The bound on a delay, where the spec has one (R233, 90_conflicts.md C8). -/
def DelayName.atMost : DelayName → Option Nat
  | .ceHold => some Config.tCeHoldMax
  | .initSettle => none

/-- A field of a register byte: its mask and shift (40_codec.md R161). -/
structure Field where
  mask : Byte
  shift : Nat
deriving DecidableEq, Repr

/-- The chip's opcodes, register addresses and open field positions: parameters of the model (R11; 93 U16). Their
defaults are `Layout.default`. -/
structure Layout where
  /-- `OPC_R_REGISTER` (30_encoding.md R133). -/
  opcRRegister : Byte
  /-- `OPC_W_REGISTER` (R133). -/
  opcWRegister : Byte
  /-- `OPC_R_RX_PAYLOAD` (R133). -/
  opcRRxPayload : Byte
  /-- `OPC_W_TX_PAYLOAD` (R133). -/
  opcWTxPayload : Byte
  /-- `REG_CONFIG` (10_state.md R50, R51). -/
  regConfig : BitVec 5
  /-- `REG_EN_AA` (R50, R52). -/
  regEnAa : BitVec 5
  /-- `REG_EN_RXADDR` (R50, R53). -/
  regEnRxaddr : BitVec 5
  /-- `REG_RF_CH` (R50, R54). -/
  regRfCh : BitVec 5
  /-- `REG_RF_SETUP` (R50, R55). -/
  regRfSetup : BitVec 5
  /-- `REG_STATUS` (R50, R56). -/
  regStatus : BitVec 5
  /-- `REG_RX_ADDR_P0`; pipe p's register is p addresses on (R50, R57). -/
  regRxAddrP0 : BitVec 5
  /-- `REG_RX_PW_P0`; pipe p's register is p addresses on (R50, R59). -/
  regRxPwP0 : BitVec 5
  /-- The working-mode bit of CONFIG (R51, D8). -/
  workingModeBit : BitVec 3
  /-- The data-rate bit of RF_SETUP (R55, D11). -/
  dataRateBit : BitVec 3
  /-- The channel field of RF_CH (R54, D12). -/
  channelField : Field
  /-- The enabled bits of EN_RXADDR, pipe 0's first (R53, D13). -/
  enabledBits : List (BitVec 3)
  /-- The payload-size field of RX_PW_Pp (R59, D14). -/
  payloadSizeField : Field
  /-- The RX-ready bit of STATUS (R56, D16). -/
  rxReadyBit : BitVec 3
deriving DecidableEq, Repr

/-- The construction parameters on which the block's behaviour depends (R11). They stand in State, no step
changes them, and a statement over all states therefore holds for every value of them. -/
structure Params where
  /-- `IRQ_PENDING_DEPTH`, at least 1 (D19). -/
  irqPendingDepth : Nat
  /-- `CE_AFTER_SEND` is High (D21). -/
  ceAfterSendHigh : Bool
  /-- `N_HOST_AGENTS`, at least 1 (D36): the host agents are the numbers below it (60_exceptions.md R334). -/
  nHostAgents : Nat
  /-- `OPC_*`, `REG_*` and the field positions (D6 to D16). -/
  layout : Layout
deriving DecidableEq, Repr

end Sys2Proof
end

