-- ==== Sys2Proof/Syntax.lean ====
section
/-! DEFINITION. The instructions: one constructor per row of spec/opcode_table.json. A host operation keeps
the two operands its request frame carries, the 3-bit pipe field and the argument bytes (30_encoding.md R121):
a non-zero pipe field of a device operation and a disallowed L are answered by the block with E_ILLEGAL_OP
(R124), so they are operands here and not decoding failures. -/

namespace Sys2Proof

/-- The 20 host operations, the 12 reserved host op codes and the 4 wire commands. -/
inductive Instr where
  /-- INIT, op 0x01 (41_device_config.md R192). -/
  | init (pipe : BitVec 3) (args : List Byte)
  /-- SET_CHANNEL, op 0x02 (R193). -/
  | setChannel (pipe : BitVec 3) (args : List Byte)
  /-- GET_CHANNEL, op 0x03 (R194). -/
  | getChannel (pipe : BitVec 3) (args : List Byte)
  /-- SET_OUTPUT_POWER, op 0x04 (R195). -/
  | setOutputPower (pipe : BitVec 3) (args : List Byte)
  /-- GET_OUTPUT_POWER, op 0x05 (R196). -/
  | getOutputPower (pipe : BitVec 3) (args : List Byte)
  /-- SET_DATA_RATE, op 0x06 (R197). -/
  | setDataRate (pipe : BitVec 3) (args : List Byte)
  /-- GET_DATA_RATE, op 0x07 (R198). -/
  | getDataRate (pipe : BitVec 3) (args : List Byte)
  /-- SET_POWER_MODE, op 0x08 (R199). -/
  | setPowerMode (pipe : BitVec 3) (args : List Byte)
  /-- GET_POWER_MODE, op 0x09 (R200). -/
  | getPowerMode (pipe : BitVec 3) (args : List Byte)
  /-- GET_WORKING_MODE, op 0x0A (R201). -/
  | getWorkingMode (pipe : BitVec 3) (args : List Byte)
  /-- SEND, op 0x0B (42_transmit_receive.md R231). -/
  | send (pipe : BitVec 3) (args : List Byte)
  /-- REGISTER_CONSUMER, op 0x0C (R234). -/
  | registerConsumer (pipe : BitVec 3) (args : List Byte)
  /-- PIPE_GET_ADDRESS, op 0x10 (43_pipe.md R271). -/
  | pipeGetAddress (pipe : BitVec 3) (args : List Byte)
  /-- PIPE_SET_ADDRESS, op 0x11 (R272). -/
  | pipeSetAddress (pipe : BitVec 3) (args : List Byte)
  /-- PIPE_GET_AUTOACK, op 0x12 (R273). -/
  | pipeGetAutoack (pipe : BitVec 3) (args : List Byte)
  /-- PIPE_SET_AUTOACK, op 0x13 (R274). -/
  | pipeSetAutoack (pipe : BitVec 3) (args : List Byte)
  /-- PIPE_GET_PAYLOAD_SIZE, op 0x14 (R275). -/
  | pipeGetPayloadSize (pipe : BitVec 3) (args : List Byte)
  /-- PIPE_SET_PAYLOAD_SIZE, op 0x15 (R276). -/
  | pipeSetPayloadSize (pipe : BitVec 3) (args : List Byte)
  /-- PIPE_GET_ENABLED, op 0x16 (R277). -/
  | pipeGetEnabled (pipe : BitVec 3) (args : List Byte)
  /-- PIPE_SET_ENABLED, op 0x17 (R278). -/
  | pipeSetEnabled (pipe : BitVec 3) (args : List Byte)
  /-- Reserved host op codes (30_encoding.md R129): the block answers E_ILLEGAL_OP. -/
  | reservedOp00 (pipe : BitVec 3) (args : List Byte)
  | reservedOp0D (pipe : BitVec 3) (args : List Byte)
  | reservedOp0E (pipe : BitVec 3) (args : List Byte)
  | reservedOp0F (pipe : BitVec 3) (args : List Byte)
  | reservedOp18 (pipe : BitVec 3) (args : List Byte)
  | reservedOp19 (pipe : BitVec 3) (args : List Byte)
  | reservedOp1A (pipe : BitVec 3) (args : List Byte)
  | reservedOp1B (pipe : BitVec 3) (args : List Byte)
  | reservedOp1C (pipe : BitVec 3) (args : List Byte)
  | reservedOp1D (pipe : BitVec 3) (args : List Byte)
  | reservedOp1E (pipe : BitVec 3) (args : List Byte)
  | reservedOp1F (pipe : BitVec 3) (args : List Byte)
  /-- Wire: read register (30_encoding.md R138). -/
  | rRegister (reg : BitVec 5)
  /-- Wire: write register with the register's new bytes (R139). -/
  | wRegister (reg : BitVec 5) (data : List Byte)
  /-- Wire: read RX payload (R140). -/
  | rRxPayload
  /-- Wire: write TX payload (R141). -/
  | wTxPayload (data : List Byte)
deriving DecidableEq, Repr

/-- The instruction is a request of the host port, so a response frame answers it (R120); the four wire
commands are not. -/
def Instr.isHost : Instr → Bool
  | .rRegister _ => false
  | .wRegister _ _ => false
  | .rRxPayload => false
  | .wTxPayload _ => false
  | .init _ _ | .setChannel _ _ | .getChannel _ _ | .setOutputPower _ _ | .getOutputPower _ _
  | .setDataRate _ _ | .getDataRate _ _ | .setPowerMode _ _ | .getPowerMode _ _ | .getWorkingMode _ _
  | .send _ _ | .registerConsumer _ _
  | .pipeGetAddress _ _ | .pipeSetAddress _ _ | .pipeGetAutoack _ _ | .pipeSetAutoack _ _
  | .pipeGetPayloadSize _ _ | .pipeSetPayloadSize _ _ | .pipeGetEnabled _ _ | .pipeSetEnabled _ _
  | .reservedOp00 _ _ | .reservedOp0D _ _ | .reservedOp0E _ _ | .reservedOp0F _ _
  | .reservedOp18 _ _ | .reservedOp19 _ _ | .reservedOp1A _ _ | .reservedOp1B _ _
  | .reservedOp1C _ _ | .reservedOp1D _ _ | .reservedOp1E _ _ | .reservedOp1F _ _ => true

end Sys2Proof
end

