-- ==== Sys2Proof/WellFormed.lean ====
section
/-! DEFINITION. Which layouts and which instruction terms are well formed: a host request whose frame 30_encoding.md
R124 does not refuse (R125, R126), a reserved op code in a frame of the right length (R129), a wire command the block
can emit (R134, R135). The VALUES of arguments are no matter of form: the block validates them (60_exceptions.md
R323). -/

namespace Sys2Proof

/-- The addresses of the one-byte and five-byte registers of a layout (10_state.md R50). -/
def WellFormed.addresses (y : Layout) : List (BitVec 5) :=
  [y.regConfig, y.regEnAa, y.regEnRxaddr, y.regRfCh, y.regRfSetup, y.regStatus] ++
  (List.range 6).map (fun p => y.regRxAddrP0 + BitVec.ofNat 5 p) ++
  (List.range 6).map (fun p => y.regRxPwP0 + BitVec.ofNat 5 p)

/-- The widths of the chip registers of R50, by address; 0 where the layout has no register. -/
def WellFormed.widthOf (y : Layout) (reg : BitVec 5) : Nat :=
  if reg = y.regRxAddrP0 ∨ reg = y.regRxAddrP0 + 1 then 5
  else if reg ∈ WellFormed.addresses y then 1
  else 0

/-- The field keeps every value up to `largest` when it is put into a byte and taken out again. -/
def WellFormed.keeps (f : Field) (largest : Nat) : Bool :=
  (List.range (largest + 1)).all fun n =>
    decide (((BitVec.ofNat 8 n <<< f.shift) &&& f.mask) >>> f.shift = BitVec.ofNat 8 n)

/-- A layout a chip can have: the register opcodes leave their low five bits to the address and no two commands
share a byte (30_encoding.md R132, R133), no two registers share an address and none lies beyond 0x1F (10_state.md
R50), no two fields of one register share a bit (R51, R53, R55, R56), and the channel and payload-size fields hold
their ranges (00_scope.md R9). The defaults are one (log entry 2).

DESIGN CHOICE (log entry 2): which positions a parameter may take is open. The block's own fields are kept apart, but not
from bits the block does not own: the working-mode bit may be any bit of CONFIG but 1, also one of the interrupt masks
(bits 6 to 4), which INIT and SEND of such a layout then write, against 60_exceptions.md R318. How wide the channel and
payload-size fields may be is open too: they need only hold 0..127 and 0..32, so a mask of 0xFF with shift 0 is taken, and
GET_CHANNEL, PIPE_GET_PAYLOAD_SIZE and the views of such a layout return up to 255, beyond the 0..127 and 0..63 of
30_encoding.md R128. -/
def Layout.wf (y : Layout) : Bool :=
  decide (y.opcRRegister &&& 0x1F = 0) && decide (y.opcWRegister &&& 0x1F = 0) &&
  decide (y.opcRRegister ≠ y.opcWRegister) &&
  [y.opcRRxPayload, y.opcWTxPayload].all (fun b =>
    decide (b &&& 0xE0 ≠ y.opcRRegister) && decide (b &&& 0xE0 ≠ y.opcWRegister)) &&
  decide (y.opcRRxPayload ≠ y.opcWTxPayload) &&
  decide (WellFormed.addresses y).Nodup &&
  decide (y.regRxAddrP0.toNat + 5 < 32) && decide (y.regRxPwP0.toNat + 5 < 32) &&
  decide (y.workingModeBit ≠ 1) && decide (y.dataRateBit ≠ 1) && decide (y.dataRateBit ≠ 2) &&
  decide (y.enabledBits.length = 6) && decide y.enabledBits.Nodup &&
  decide (6 ≤ y.rxReadyBit.toNat) &&
  WellFormed.keeps y.channelField 127 && WellFormed.keeps y.payloadSizeField 32

/-- The length byte can say the number of arguments (R121: L is one byte). -/
def WellFormed.fits (args : List Byte) : Bool := decide (args.length ≤ 255)

/-- A device operation with `l` arguments: pipe field 0 and the one allowed L (R124, R126). -/
def WellFormed.device (pipe : BitVec 3) (args : List Byte) (l : Nat) : Bool :=
  decide (pipe = 0) && decide (args.length = l)

/-- A pipe operation with `l` arguments: any pipe field and the one allowed L; 6 and 7 are legal in the frame
and fail validation (R129). -/
def WellFormed.pipeOp (args : List Byte) (l : Nat) : Bool := decide (args.length = l)

/-- The instruction's frame is legal; the layout matters to the wire's register commands only. -/
def Instr.wellFormed (y : Layout) : Instr → Bool
  | .init p a => WellFormed.device p a 4
  | .setChannel p a => WellFormed.device p a 1
  | .getChannel p a => WellFormed.device p a 0
  | .setOutputPower p a => WellFormed.device p a 1
  | .getOutputPower p a => WellFormed.device p a 0
  | .setDataRate p a => WellFormed.device p a 1
  | .getDataRate p a => WellFormed.device p a 0
  | .setPowerMode p a => WellFormed.device p a 1
  | .getPowerMode p a => WellFormed.device p a 0
  | .getWorkingMode p a => WellFormed.device p a 0
  | .send p a => decide (p = 0) && WellFormed.fits a
  | .registerConsumer p a => WellFormed.device p a 0
  | .pipeGetAddress _ a => WellFormed.pipeOp a 0
  | .pipeSetAddress _ a => WellFormed.fits a
  | .pipeGetAutoack _ a => WellFormed.pipeOp a 0
  | .pipeSetAutoack _ a => WellFormed.pipeOp a 1
  | .pipeGetPayloadSize _ a => WellFormed.pipeOp a 0
  | .pipeSetPayloadSize _ a => WellFormed.pipeOp a 1
  | .pipeGetEnabled _ a => WellFormed.pipeOp a 0
  | .pipeSetEnabled _ a => WellFormed.pipeOp a 1
  | .reservedOp00 _ a | .reservedOp0D _ a | .reservedOp0E _ a | .reservedOp0F _ a
  | .reservedOp18 _ a | .reservedOp19 _ a | .reservedOp1A _ a | .reservedOp1B _ a
  | .reservedOp1C _ a | .reservedOp1D _ a | .reservedOp1E _ a | .reservedOp1F _ a => WellFormed.fits a
  | .rRegister r => decide (WellFormed.widthOf y r ≠ 0)
  | .wRegister r d => decide (WellFormed.widthOf y r ≠ 0) && decide (d.length = WellFormed.widthOf y r)
  | .rRxPayload => true
  | .wTxPayload d => decide (1 ≤ d.length) && decide (d.length ≤ 32)

end Sys2Proof
end

