-- ==== Sys2Proof/Decode.lean ====
section
/-! DEFINITION. The default layout; the decoders of the two ports, total on any bytes and rejecting by name: host
request frames
(30_encoding.md R121 to R125, R142) and wire command frames (R131 to R136); then the encoder, written from the
same maps; then the reading of a word numbered as spec/opcode_table.json numbers it. -/

namespace Sys2Proof

/-- The defaults of the opcodes (30_encoding.md R133), register addresses (10_state.md R50) and field positions
(40_codec.md R161): from general knowledge of the nRF24L01, as the spec says (log entry 2). -/
def Layout.default : Layout :=
  { opcRRegister := 0x00
    opcWRegister := 0x20
    opcRRxPayload := 0x61
    opcWTxPayload := 0xA0
    regConfig := 0x00
    regEnAa := 0x01
    regEnRxaddr := 0x02
    regRfCh := 0x05
    regRfSetup := 0x06
    regStatus := 0x07
    regRxAddrP0 := 0x0A
    regRxPwP0 := 0x11
    workingModeBit := 0
    dataRateBit := 3
    channelField := ⟨0x7F, 0⟩
    enabledBits := [0, 1, 2, 3, 4, 5]
    payloadSizeField := ⟨0x3F, 0⟩
    rxReadyBit := 6 }

/-- The defaults of 00_scope.md R11: depth 1, chip-enable High after SEND, the default layout. For N_HOST_AGENTS R11 says
"any n >= 1"; the model names 1 (DESIGN CHOICE, log entry 17). -/
def Params.default : Params := ⟨1, true, 1, Layout.default⟩

/-- The two ports bytes are decoded at: the host request port and the wire (20_memory.md R80). The same byte
0 means different things at the two, so a decoder is told its port. -/
inductive Port where
  | host
  | wire
deriving DecidableEq, Repr

/-- Why bytes are no instruction. -/
inductive DecodeError where
  /-- Fewer than two bytes (R124): the block answers E_ILLEGAL_OP. -/
  | hostTooShort
  /-- The length is not 2 + L (R124): the block answers E_ILLEGAL_OP. -/
  | hostLengthMismatch
  /-- No byte at all on the wire. -/
  | wireEmpty
  /-- Byte 0 matches no row of R133 (R136: "not one the block emits"). -/
  | wireNoCommand
  /-- A read command with payload bytes, which R133 gives it none of. -/
  | wireTrailingBytes
  /-- A payload beyond the command frame's 32 bytes (R131). -/
  | wirePayloadTooLong
deriving DecidableEq, Repr

/-- The host operation map, indexed by op code (R125; reserved op codes R129). -/
def hostMap : List (BitVec 3 → List Byte → Instr) :=
  [.reservedOp00, .init, .setChannel, .getChannel, .setOutputPower, .getOutputPower, .setDataRate,
    .getDataRate, .setPowerMode, .getPowerMode, .getWorkingMode, .send, .registerConsumer,
    .reservedOp0D, .reservedOp0E, .reservedOp0F] ++
  [.pipeGetAddress, .pipeSetAddress, .pipeGetAutoack, .pipeSetAutoack, .pipeGetPayloadSize,
    .pipeSetPayloadSize, .pipeGetEnabled, .pipeSetEnabled,
    .reservedOp18, .reservedOp19, .reservedOp1A, .reservedOp1B, .reservedOp1C, .reservedOp1D,
    .reservedOp1E, .reservedOp1F]

/-- The op field, byte 0 bits 7:3 (R121, R123). -/
def opField (hdr : Byte) : BitVec 5 := hdr.extractLsb' 3 5

/-- The pipe field, byte 0 bits 2:0 (R121, R123). -/
def pipeField (hdr : Byte) : BitVec 3 := hdr.extractLsb' 0 3

/-- The instruction of an op code (R125). -/
def hostInstr (op : BitVec 5) (pipe : BitVec 3) (args : List Byte) : Instr :=
  (hostMap.getD op.toNat .reservedOp00) pipe args

/-- Host request frame decoding (R123 and the first line of R124). -/
def decodeHost : List Byte → Except DecodeError Instr
  | hdr :: l :: args =>
    if args.length = l.toNat then .ok (hostInstr (opField hdr) (pipeField hdr) args)
    else .error .hostLengthMismatch
  | _ => .error .hostTooShort

/-- The register operand of a wire register command: byte 0 less the opcode (R136), five bits (R132). -/
def wireReg (b opc : Byte) : BitVec 5 := (b - opc).setWidth 5

/-- Wire frame decoding: byte 0 against the rows of R133 in table order (R136). -/
def decodeWire (y : Layout) : List Byte → Except DecodeError Instr
  | [] => .error .wireEmpty
  | b :: rest =>
    if b &&& 0xE0 = y.opcRRegister then
      if rest = [] then .ok (.rRegister (wireReg b y.opcRRegister)) else .error .wireTrailingBytes
    else if b &&& 0xE0 = y.opcWRegister then
      if rest.length ≤ Config.payloadMax then .ok (.wRegister (wireReg b y.opcWRegister) rest)
      else .error .wirePayloadTooLong
    else if b = y.opcRRxPayload then
      if rest = [] then .ok .rRxPayload else .error .wireTrailingBytes
    else if b = y.opcWTxPayload then
      if rest.length ≤ Config.payloadMax then .ok (.wTxPayload rest) else .error .wirePayloadTooLong
    else .error .wireNoCommand

/-- The decoder of a port; the layout matters to the wire only. -/
def decode (y : Layout) : Port → List Byte → Except DecodeError Instr
  | .host, bs => decodeHost bs
  | .wire, bs => decodeWire y bs

/-- The port an instruction is decoded at. -/
def Instr.port (i : Instr) : Port := if i.isHost then .host else .wire

/-- `encode(cmd, reg, payload) = [(cmd + reg) mod 256] ++ payload` (40_codec.md R160, R131). -/
def encodeCmd (cmd reg : Byte) (payload : List Byte) : List Byte := (cmd + reg) :: payload

/-- A host request frame (R121): op and pipe in byte 0, L in byte 1, the arguments. -/
def encodeHost (op : BitVec 5) (pipe : BitVec 3) (args : List Byte) : List Byte :=
  (op ++ pipe) :: BitVec.ofNat 8 args.length :: args

/-- The frame of an instruction, from the maps of R125 and R133; the layout matters to the wire commands only. -/
def encode (y : Layout) : Instr → List Byte
  | .init p a => encodeHost 0x01 p a
  | .setChannel p a => encodeHost 0x02 p a
  | .getChannel p a => encodeHost 0x03 p a
  | .setOutputPower p a => encodeHost 0x04 p a
  | .getOutputPower p a => encodeHost 0x05 p a
  | .setDataRate p a => encodeHost 0x06 p a
  | .getDataRate p a => encodeHost 0x07 p a
  | .setPowerMode p a => encodeHost 0x08 p a
  | .getPowerMode p a => encodeHost 0x09 p a
  | .getWorkingMode p a => encodeHost 0x0A p a
  | .send p a => encodeHost 0x0B p a
  | .registerConsumer p a => encodeHost 0x0C p a
  | .pipeGetAddress p a => encodeHost 0x10 p a
  | .pipeSetAddress p a => encodeHost 0x11 p a
  | .pipeGetAutoack p a => encodeHost 0x12 p a
  | .pipeSetAutoack p a => encodeHost 0x13 p a
  | .pipeGetPayloadSize p a => encodeHost 0x14 p a
  | .pipeSetPayloadSize p a => encodeHost 0x15 p a
  | .pipeGetEnabled p a => encodeHost 0x16 p a
  | .pipeSetEnabled p a => encodeHost 0x17 p a
  | .reservedOp00 p a => encodeHost 0x00 p a
  | .reservedOp0D p a => encodeHost 0x0D p a
  | .reservedOp0E p a => encodeHost 0x0E p a
  | .reservedOp0F p a => encodeHost 0x0F p a
  | .reservedOp18 p a => encodeHost 0x18 p a
  | .reservedOp19 p a => encodeHost 0x19 p a
  | .reservedOp1A p a => encodeHost 0x1A p a
  | .reservedOp1B p a => encodeHost 0x1B p a
  | .reservedOp1C p a => encodeHost 0x1C p a
  | .reservedOp1D p a => encodeHost 0x1D p a
  | .reservedOp1E p a => encodeHost 0x1E p a
  | .reservedOp1F p a => encodeHost 0x1F p a
  | .rRegister r => encodeCmd y.opcRRegister (r.setWidth 8) []
  | .wRegister r d => encodeCmd y.opcWRegister (r.setWidth 8) d
  | .rRxPayload => encodeCmd y.opcRRxPayload 0 []
  | .wTxPayload d => encodeCmd y.opcWTxPayload 0 d

/-- The first `n` bytes of a word whose bits 7:0 are the first byte (the opcode table's numbering). -/
def wordBytes : Nat → Nat → List Byte
  | 0, _ => []
  | n + 1, w => BitVec.ofNat 8 w :: wordBytes n (w / 256)

/-- `bs` and zeros after it, to `n` bytes at least. -/
def padZeros (n : Nat) (bs : List Byte) : List Byte := bs ++ List.replicate (n - bs.length) 0

/-- The host frame that begins with these bytes, every later byte zero: byte 1 says how many arguments
follow (R142). -/
def tableHostFrame (bs : List Byte) : List Byte :=
  let l := (bs.getD 1 0).toNat
  (padZeros (2 + l) bs).take (2 + l)

/-- The wire frame that begins with these bytes, every later byte zero: a register write has the register's
width of data, a TX payload at least one byte (R133, R142). -/
def tableWireFrame (y : Layout) (bs : List Byte) : List Byte :=
  let b := bs.getD 0 0
  if b &&& 0xE0 = y.opcWRegister then
    padZeros (1 + WellFormed.widthOf y (wireReg b y.opcWRegister)) bs
  else if b = y.opcWTxPayload then padZeros 2 bs
  else bs

/-- Byte 0 meets the match and mask of a host row of spec/opcode_table.json: a device operation's row has a
zero pipe field, a pipe operation's and a reserved row any. -/
def meetsHostRow (b : Byte) : Bool :=
  decide (pipeField b = 0) || decide (0x0D ≤ (opField b).toNat) || decide (opField b = 0)

/-- The instruction the decoder reads from a word numbered as the opcode table numbers it. The word carries no
port: a word that meets a host row is read at the host port, any other at the wire, and at the host port again
if the wire decoder refuses it (log entry 3). The table's wire rows are those of the default opcodes. -/
def decodeTableWord (nbits w : Nat) : Option Instr :=
  let bs := wordBytes ((nbits + 7) / 8) w
  let asHost := (decodeHost (tableHostFrame bs)).toOption
  if meetsHostRow (bs.getD 0 0) then asHost
  else
    match decodeWire Layout.default (tableWireFrame Layout.default bs) with
    | .ok i => some i
    | .error _ => asHost

end Sys2Proof
end

