-- ==== Sys2Proof/Machine/State.lean ====
section
/-! DEFINITION. The state of the machine as plain data: the block's own state (10_state.md R30), the chip the
block reaches (R50 to R63), the construction parameters (00_scope.md R11), the trace (R18), and the outside
world's pending choices. -/

namespace Sys2Proof.Machine

open Sys2Proof

/-- The mode state machine (R31). -/
inductive Fsm where
  | uninitialized
  | configuredRx
  | configuredTx
deriving DecidableEq, Repr

/-- Who executes: a host agent by number, or the one IRQ agent (60_exceptions.md R321, R334). -/
inductive Agent where
  | host (n : Nat)
  | irq
deriving DecidableEq, Repr

/-- The exclusion (R35). -/
inductive Lock where
  | free
  | held (a : Agent)
deriving DecidableEq, Repr

/-- The status of a response (60_exceptions.md R311). -/
inductive Status where
  | ok
  | illegalOp
  | faulted
  | notInitialized
  | alreadyInitialized
  | pipeRange
  | channelRange
  | payloadSizeRange
  | addressLength
  | sendLength
  | enumValue
  | bus
deriving DecidableEq, Repr

/-- The events of the trace (00_scope.md R18). -/
inductive Event where
  /-- A bus transaction that completed: bytes sent, bytes asked for, bytes received (20_memory.md R84). -/
  | txn (tx : List Byte) (rxLen : Nat) (rx : List Byte)
  /-- Chip-enable driven to a level (R16). -/
  | ce (b : Bool)
  /-- A delay (R16). -/
  | delay (d : DelayName)
  /-- A packet handed to the consumer (42_transmit_receive.md R236). -/
  | deliver (pkt : List Byte)
  /-- A packet discarded for want of a consumer (R237). -/
  | drop (pkt : List Byte)
  /-- A response frame to a host agent (30_encoding.md R122). -/
  | resp (agent : Nat) (status : Status) (data : List Byte)
deriving DecidableEq, Repr

/-- What a sequencer executes: an instruction, or the RX drain, which has no op code (30_encoding.md R125). -/
inductive Op where
  | instr (i : Instr)
  | drain
deriving DecidableEq, Repr

/-- An operation's local values (R41): the bytes read last, and the RX drain's choice `reg`
(42_transmit_receive.md R235). -/
structure Locals where
  bytes : List Byte
  deliver : Bool
deriving DecidableEq, Repr

/-- No byte read yet. -/
def Locals.start : Locals := ⟨[], false⟩

/-- The course an operation is on (R41: "the only changes of course are an abort" and the two-way choice of the RX
drain's last step). -/
inductive Course where
  /-- Its primitives in order. -/
  | main
  /-- Raised with the exclusion held: it releases it next (41_device_config.md R190). -/
  | raised (c : Status)
  /-- Aborted without the exclusion: it returns the code next. -/
  | returning (c : Status)
  /-- In a transaction that never completes, for ever (60_exceptions.md R315). -/
  | hung
  /-- In `Deliver`: the packet is handed over and the consumer has not returned (42_transmit_receive.md R236). -/
  | delivering
deriving DecidableEq, Repr

/-- A sequencer that is not Idle (R41): the operation, the index of its next primitive, its locals, and the
course it is on. -/
structure Busy where
  op : Op
  step : Nat
  locals : Locals
  course : Course
deriving DecidableEq, Repr

/-- A memory: cells in rising order of address, none that an unlisted address reads as. The chip register
space is one: byte `i` of register `r` has the address `8 * r + i` (log entry 4). -/
abbrev Memory := List Host.Cell

/-- An entry of the RX FIFO: the packet and the pipe it came on (20_memory.md R111, R113). -/
structure RxEntry where
  pipe : BitVec 3
  data : List Byte
deriving DecidableEq, Repr

/-- The chip: registers (10_state.md R50), RX and TX FIFO, head first (R61). -/
structure Chip where
  regs : Memory
  rxFifo : List RxEntry
  txFifo : List (List Byte)
  /-- The model's own: how many payloads at the head of the TX FIFO were queued while chip-enable was high for
  `T_CE_HOLD` under the conditions of 20_memory.md R115, so that the reference chip may transmit them (the model has
  no time; log entry 14). -/
  held : Nat
deriving DecidableEq, Repr

/-- What the environment answers to one bus transaction (20_memory.md R85). -/
inductive Answer where
  /-- The reference chip answers (R107 to R112). -/
  | reference
  /-- Any other environment: the transaction completes with these bytes and leaves the chip as given. -/
  | other (rx : List Byte) (chip : Chip)
  /-- The transaction fails. -/
  | fail
  /-- The transaction never completes. -/
  | hang
deriving DecidableEq, Repr

/-- One choice of the outside world: which agent moves next, or what happens at a port (R99, R334). -/
inductive Input where
  /-- A host agent presents a request frame and runs its operation until it ends or can go no further. -/
  | request (a : Nat) (frame : List Byte)
  /-- A host agent presents a request frame; it is decoded and validated, and its sequencer set up. -/
  | issue (a : Nat) (frame : List Byte)
  /-- An agent performs its next primitive; the IRQ agent, when Idle, starts its handler. -/
  | advance (ag : Agent)
  /-- The IRQ agent runs its handler until it ends or can go no further. -/
  | handler
  /-- A wire command frame reaches the chip from outside the block (log entry 13). -/
  | wire (frame : List Byte)
  /-- The edge detector samples this level (True = high) on the IRQ input. -/
  | sample (level : Bool)
  /-- The edge detector samples the level the reference chip drives (20_memory.md R114). -/
  | sampleLine
  /-- A packet for a pipe reaches the reference chip (R113). -/
  | reception (pipe : BitVec 3) (data : List Byte)
  /-- Chip-enable has now been high for `T_CE_HOLD`, if it is high (R115). -/
  | holdPasses
  /-- The reference chip transmits (R115): sent, or retries exhausted. -/
  | transmission (sent : Bool)
  /-- The chip changes by itself, in an environment that is not the reference chip (U23, U24). -/
  | chipChange (chip : Chip)
deriving DecidableEq, Repr

/-- The state of the machine. -/
structure State where
  /-- Mode state machine (R31). -/
  fsm : Fsm
  /-- Configured packet size (R33). -/
  packetSize : Nat
  /-- A consumer is registered (R34). -/
  consumerRegistered : Bool
  /-- The exclusion (R35). -/
  lock : Lock
  /-- Falling edges latched and not yet handled (R36). -/
  irqPending : Nat
  /-- Last sampled level of the IRQ input, True = high (R37). -/
  irqLevel : Bool
  /-- Edge notification registered (R38). -/
  edgeArmed : Bool
  /-- Chip-enable output latch (R39). -/
  ce : Bool
  /-- A bus error has occurred (R40). -/
  faulted : Bool
  /-- Packets dropped for want of a consumer (R42). -/
  droppedCount : Nat
  /-- `seq[a]` of the host agents that are not Idle (R41), by agent number in rising order. -/
  hostSeq : List (Nat × Busy)
  /-- `seq` of the IRQ agent, `none` when Idle (R41). -/
  irqSeq : Option Busy
  /-- Construction parameters (00_scope.md R11). -/
  params : Params
  /-- The chip (section 2 of 10_state.md). -/
  chip : Chip
  /-- The trace, oldest event first (R18). -/
  trace : List Event
  /-- The model's own: the outside world's next choices, first one next. -/
  agenda : List Input
  /-- The model's own: the environment's next answers to bus transactions, first one next; the reference chip
  answers when none is left (log entry 6). -/
  answers : List Answer
  /-- The model's own: the host agent whose request is executed. -/
  requester : Nat
  /-- The model's own: the bytes the chip returned to the last wire command from outside the block (log entry
  13). -/
  wireRx : List Byte
  /-- The model's own: how many free values have been taken. -/
  free : Nat
deriving DecidableEq, Repr

/-- The layout of the chip's commands and registers (R11). -/
abbrev State.layout (s : State) : Layout := s.params.layout

/-- Why the machine stops. The block itself never does (10_state.md R31: "Terminal state: none"). -/
inductive Fault where
  /-- Raised by step for bytes on the wire that are no command frame, which the block never emits
  (30_encoding.md R136, R137). Safe: no claim about what follows can be proved. -/
  | notAWireCommand (e : DecodeError)
deriving DecidableEq, Repr

/-- Why an instruction has no meaning. -/
inductive Refusal where
  /-- Raised by no arm of exec: every instruction has its meaning. Safe. -/
  | notModelled (mnemonic : String)
deriving DecidableEq, Repr

/-- The chip at `CHIP_RESET` (10_state.md R63): no cell differs from what an unlisted address reads as, both
FIFOs empty. -/
def Chip.reset : Chip := { regs := [], rxFifo := [], txFifo := [], held := 0 }

/-- Construction of a block (R360) with its parameters, in front of a chip in any state, at the IRQ level of
that moment. `packetSize` is unspecified in R30; the model names 0 (log entry 1). -/
def State.construct (p : Params) (c : Chip) (irqLevel : Bool) : State :=
  { fsm := .uninitialized
    packetSize := 0
    consumerRegistered := false
    lock := .free
    irqPending := 0
    irqLevel := irqLevel
    edgeArmed := false
    ce := false
    faulted := false
    droppedCount := 0
    hostSeq := []
    irqSeq := none
    params := p
    chip := c
    trace := []
    agenda := []
    answers := []
    requester := 0
    wireRx := []
    free := 0 }

/-- The machine right after reset: the default parameters (R11), the chip at CHIP_RESET (R63), whose IRQ line
is high (R114, log entry 5), nothing pending from outside. -/
def State.reset : State := State.construct Params.default Chip.reset true

end Sys2Proof.Machine
end

