-- ==== Sys2Proof/Machine/Flags.lean ====
section
/-! DEFINITION. The flag-like state of 10_state.md R44: status codes and the response frame
(60_exceptions.md R311, 30_encoding.md R122), and the chip's STATUS flags with the IRQ line they drive
(R56, 20_memory.md R110 to R115). -/

namespace Sys2Proof.Machine

open Sys2Proof

/-- Byte 0 of a response frame (R311). -/
def Status.code : Status → Byte
  | .ok => 0x00
  | .illegalOp => 0x01
  | .faulted => 0x02
  | .notInitialized => 0x03
  | .alreadyInitialized => 0x04
  | .pipeRange => 0x05
  | .channelRange => 0x06
  | .payloadSizeRange => 0x07
  | .addressLength => 0x08
  | .sendLength => 0x09
  | .enumValue => 0x0A
  | .bus => 0x0B

/-- A response frame (R122): status, M, data. -/
def responseFrame (st : Status) (data : List Byte) : List Byte :=
  st.code :: BitVec.ofNat 8 data.length :: data

/-- The first error that applies, in the order listed (60_exceptions.md R323). -/
def firstError : List (Option Status) → Option Status
  | [] => none
  | some c :: _ => some c
  | none :: rest => firstError rest

/-- The error `c` when the condition holds. -/
def errorIf (cond : Bool) (c : Status) : Option Status := if cond then some c else none

/-- The RX-ready flag of STATUS, bit 6 at its default (R56). -/
def rxReadyFlag (y : Layout) : Byte := 0x01 <<< y.rxReadyBit.toNat

/-- The flags of STATUS that a 1 clears: RX-ready, TX_DS (bit 5) and MAX_RT (bit 4) (R56). -/
def statusFlags (y : Layout) : Byte := rxReadyFlag y ||| 0x30

/-- `STATUS[6:4] <- STATUS[6:4] & ~v[6:4]`, the bits that are no flag unchanged (20_memory.md R110). -/
def statusClear (y : Layout) (status v : Byte) : Byte := status &&& ~~~(v &&& statusFlags y)

/-- `STATUS[3:1] <- p` (R111, R113). -/
def statusSetPipe (status : Byte) (p : BitVec 3) : Byte :=
  (status &&& ~~~(0x0E : Byte)) ||| (p.setWidth 8 <<< 1)

/-- `STATUS[6] <- 1`, RX_DR (R113). -/
def statusSetRxReady (y : Layout) (status : Byte) : Byte := status ||| rxReadyFlag y

/-- TX_DS (bit 5) when the packet was sent, else MAX_RT (bit 4) (R115). -/
def statusSetTxDone (status : Byte) (sent : Bool) : Byte := status ||| (if sent then 0x20 else 0x10)

/-- The IRQ line level, True = high: low exactly when an unmasked flag of STATUS is set; the masks are CONFIG bits 6
(of RX-ready), 5 and 4 (R114, R51). -/
def irqLineLevel (y : Layout) (status config : Byte) : Bool :=
  !((status.getLsbD y.rxReadyBit.toNat && !config.getLsbD 6) || (status.getLsbD 5 && !config.getLsbD 5) ||
    (status.getLsbD 4 && !config.getLsbD 4))

end Sys2Proof.Machine
end

