-- ==== Sys2Proof/Machine/Operands.lean ====
section
/-! DEFINITION. Operand forms: the arguments of a request frame (30_encoding.md R126, R127), the chip register
addresses and widths (10_state.md R50), the field table with its decoders and `insert` (40_codec.md R161 to
R170), and the checks that validation is made of (60_exceptions.md R323). -/

namespace Sys2Proof

/-- The registers the block uses, by name (10_state.md R50). -/
inductive Reg where
  | config
  | enAa
  | enRxaddr
  | rfCh
  | rfSetup
  | status
  | rxAddr (p : BitVec 3)
  | rxPw (p : BitVec 3)
deriving DecidableEq, Repr

/-- The address of a register; `REG_RX_ADDR(p) = REG_RX_ADDR_P0 + p`, `REG_RX_PW(p) = REG_RX_PW_P0 + p` (R50). -/
def Layout.addr (y : Layout) : Reg → BitVec 5
  | .config => y.regConfig
  | .enAa => y.regEnAa
  | .enRxaddr => y.regEnRxaddr
  | .rfCh => y.regRfCh
  | .rfSetup => y.regRfSetup
  | .status => y.regStatus
  | .rxAddr p => y.regRxAddrP0 + p.setWidth 5
  | .rxPw p => y.regRxPwP0 + p.setWidth 5

/-- The fields of the field table, by name (40_codec.md R161). -/
inductive FieldName where
  | powerMode
  | workingMode
  | outputPower
  | dataRate
  | channel
  | autoAck (p : BitVec 3)
  | enabled (p : BitVec 3)
  | payloadSize
  | rxReady
deriving DecidableEq, Repr

/-- A single bit `b`, mask `1 << b` (R161, R172). -/
def Field.bit (b : Nat) : Field := ⟨0x01 <<< b, b⟩

/-- The field table (R161): MF fixes the power mode, the output power and the auto-ack bits, the rest is the
layout's. -/
def Layout.field (y : Layout) : FieldName → Field
  | .powerMode => ⟨0x02, 1⟩
  | .workingMode => Field.bit y.workingModeBit.toNat
  | .outputPower => ⟨0x06, 1⟩
  | .dataRate => Field.bit y.dataRateBit.toNat
  | .channel => y.channelField
  | .autoAck p => Field.bit p.toNat
  | .enabled p => Field.bit (y.enabledBits.getD p.toNat p).toNat
  | .payloadSize => y.payloadSizeField
  | .rxReady => Field.bit y.rxReadyBit.toNat

/-- `(v & mask) >> shift` (R161). -/
def Field.extract (f : Field) (v : Byte) : Byte := (v &&& f.mask) >>> f.shift

/-- `insert(old, mask, shift, val) = (old & ~mask) | ((val << shift) & mask)` (R170). -/
def Field.put (f : Field) (old val : Byte) : Byte := (old &&& ~~~f.mask) ||| ((val <<< f.shift) &&& f.mask)

end Sys2Proof

namespace Sys2Proof.Machine

open Sys2Proof

/-- `arg[i]` as a byte (R127). -/
def arg (args : List Byte) (i : Nat) : Byte := args.getD i 0

/-- `arg[i]` as an unsigned number (R14). -/
def argNat (args : List Byte) (i : Nat) : Nat := (arg args i).toNat

/-! ### Registers -/

/-- The width in bytes of a chip register, 0 at an address of none (R50). -/
def regWidth (y : Layout) (reg : BitVec 5) : Nat :=
  if reg = y.addr (.rxAddr 0) ∨ reg = y.addr (.rxAddr 1) then 5
  else if reg ∈ [y.addr .config, y.addr .enAa, y.addr .enRxaddr, y.addr .rfCh, y.addr .rfSetup, y.addr .status,
    y.addr (.rxAddr 2), y.addr (.rxAddr 3), y.addr (.rxAddr 4), y.addr (.rxAddr 5),
    y.addr (.rxPw 0), y.addr (.rxPw 1), y.addr (.rxPw 2), y.addr (.rxPw 3), y.addr (.rxPw 4), y.addr (.rxPw 5)] then 1
  else 0

/-- The address width `w(p)`: 5 for pipes 0 and 1, 1 for pipes 2 to 5 (43_pipe.md R270). -/
def addrWidth (p : BitVec 3) : Nat := if p.toNat ≤ 1 then 5 else 1

/-! ### Decoders -/

/-- `decodePowerMode` (R162): 1 Up, 0 Down. -/
def decodePowerMode (y : Layout) (c : Byte) : Byte := (y.field .powerMode).extract c

/-- `decodeWorkingMode` (R163): 1 Receive, 0 Transmit. -/
def decodeWorkingMode (y : Layout) (c : Byte) : Byte := (y.field .workingMode).extract c

/-- `decodeOutputPower` (R164). -/
def decodeOutputPower (y : Layout) (v : Byte) : Byte := (y.field .outputPower).extract v

/-- `decodeDataRate` (R165). -/
def decodeDataRate (y : Layout) (v : Byte) : Byte := (y.field .dataRate).extract v

/-- `decodeChannel` (R166). -/
def decodeChannel (y : Layout) (v : Byte) : Byte := (y.field .channel).extract v

/-- `decodeAutoAck` (R167). -/
def decodeAutoAck (y : Layout) (v : Byte) (p : BitVec 3) : Byte := (y.field (.autoAck p)).extract v

/-- `decodeEnabled` (R168). -/
def decodeEnabled (y : Layout) (v : Byte) (p : BitVec 3) : Byte := (y.field (.enabled p)).extract v

/-- `decodePayloadSize` (R169): as read. -/
def decodePayloadSize (y : Layout) (v : Byte) : Byte := (y.field .payloadSize).extract v

/-- The new bytes of an address register: `a ++ old[len(a) .. w-1]` (R173). -/
def addrMerge (w : Nat) (a old : List Byte) : List Byte := a ++ (old.take w).drop a.length

/-! ### Checks, each naming the error it raises (60_exceptions.md R323) -/

/-- Frame refusals of a device operation: pipe field, then L (30_encoding.md R124). -/
def deviceFrame (pipe : BitVec 3) (args : List Byte) (l : Nat) : Option Status :=
  firstError [errorIf (pipe != 0) .illegalOp, errorIf (args.length != l) .illegalOp]

/-- Frame refusals of a device operation with any L: the pipe field (R124, R126). -/
def deviceFrameAnyLength (pipe : BitVec 3) : Option Status := errorIf (pipe != 0) .illegalOp

/-- Frame refusals of a pipe operation: L (R124; any pipe field is legal, R129). -/
def pipeFrame (args : List Byte) (l : Nat) : Option Status := errorIf (args.length != l) .illegalOp

/-- `st.faulted -> E_FAULTED` (R323 step 2). -/
def faultedCheck (s : State) : Option Status := errorIf s.faulted .faulted

/-- INIT and `st.fsm != Uninitialized -> E_ALREADY_INITIALIZED` (R323 step 3). -/
def uninitializedCheck (s : State) : Option Status := errorIf (s.fsm != .uninitialized) .alreadyInitialized

/-- `st.fsm = Uninitialized -> E_NOT_INITIALIZED` (R323 step 3). -/
def initializedCheck (s : State) : Option Status := errorIf (s.fsm == .uninitialized) .notInitialized

/-- `pipe > 5 -> E_PIPE_RANGE` (R323 step 4). -/
def pipeCheck (p : BitVec 3) : Option Status := errorIf (decide (Config.nPipes ≤ p.toNat)) .pipeRange

/-- `packetSize > 32` or `n > 32 -> E_PAYLOAD_SIZE_RANGE` (R323 step 5). -/
def payloadSizeCheck (n : Nat) : Option Status :=
  errorIf (decide (Config.payloadMax < n)) .payloadSizeRange

/-- `channel > 127 -> E_CHANNEL_RANGE` (R323 step 5). -/
def channelCheck (n : Nat) : Option Status := errorIf (decide (Config.chMax < n)) .channelRange

/-- An enumeration's code or a Bool above its largest value -> E_ENUM_VALUE (R323 step 5). -/
def enumCheck (largest n : Nat) : Option Status := errorIf (decide (largest < n)) .enumValue

/-- SEND: `L = 0` or `L > st.packetSize -> E_SEND_LENGTH` (R323 step 5). -/
def sendLengthCheck (l packetSize : Nat) : Option Status :=
  errorIf (decide (l = 0 ∨ packetSize < l)) .sendLength

/-- PIPE_SET_ADDRESS: 1 to 5 bytes for pipes 0 and 1, exactly 1 for pipes 2 to 5, else E_ADDRESS_LENGTH
(43_pipe.md R272). -/
def addressLengthCheck (p : BitVec 3) (l : Nat) : Option Status :=
  errorIf (if p.toNat ≤ 1 then decide (l < 1 ∨ 5 < l) else decide (l ≠ 1)) .addressLength

end Sys2Proof.Machine
end

