-- ==== Sys2Proof/Machine/Ops.lean ====
section
/-! DEFINITION. The shared operations: memory, the chip's registers and the reference chip's answers
(20_memory.md R107 to R112), the exclusion and the sequencers (10_state.md R35, R41), bus transactions
(R84, R85), the primitives (00_scope.md R16, R17), taking a bus error or another abort and ending it
(60_exceptions.md R313, 41_device_config.md R190), the run of an operation, and taking the interrupt
(R325 to R327). -/

namespace Sys2Proof.Machine

open Sys2Proof

/-! ### Memory -/

/-- What an unlisted address of the chip register space reads as: the default CHIP_RESET at the default register
addresses (10_state.md R63, log entry 4). -/
def Memory.unlisted (k : Nat) : Byte :=
  if k = 0 then 0x08
  else if k = 8 then 0x3F
  else if k = 16 then 0x03
  else if k = 40 then 0x02
  else if k = 48 then 0x0F
  else if k = 56 then 0x0E
  else if 80 ≤ k ∧ k < 85 then 0xE7
  else if 88 ≤ k ∧ k < 93 then 0xC2
  else if k = 96 then 0xC3
  else if k = 104 then 0xC4
  else if k = 112 then 0xC5
  else if k = 120 then 0xC6
  else 0x00

/-- The byte at an address. -/
def Memory.read : Memory → Nat → Byte
  | [], k => Memory.unlisted k
  | (k', v) :: m, k => if k' = k then v else Memory.read m k

/-- Without the cells of an address. -/
def Memory.erase (m : Memory) (k : Nat) : Memory := m.filter (fun c => decide (c.1 ≠ k))

/-- A cell put before the first one of a larger address. -/
def Memory.insertCell : Memory → Nat → Byte → Memory
  | [], k, v => [(k, v)]
  | (k', v') :: m, k, v => if k < k' then (k, v) :: (k', v') :: m else (k', v') :: Memory.insertCell m k v

/-- Store a byte, keeping the canonical form. -/
def Memory.write (m : Memory) (k : Nat) (v : Byte) : Memory :=
  if v = Memory.unlisted k then m.erase k else (m.erase k).insertCell k v

/-- `n` bytes from an address up. -/
def Memory.readBytes (m : Memory) (k : Nat) : Nat → List Byte
  | 0 => []
  | n + 1 => m.read k :: m.readBytes (k + 1) n

/-- Store bytes from an address up. -/
def Memory.writeBytes (m : Memory) (k : Nat) : List Byte → Memory
  | [] => m
  | v :: vs => (m.write k v).writeBytes (k + 1) vs

/-- The canonical form: addresses strictly rising, no cell that an unlisted address reads as. -/
def Memory.wf : Memory → Bool
  | [] => true
  | (k, v) :: m =>
    decide (v ≠ Memory.unlisted k) &&
      (match m with
        | [] => true
        | (k', _) :: _ => decide (k < k')) && Memory.wf m

/-! ### Chip registers -/

/-- The address of byte 0 of a register. -/
def regCell (reg : BitVec 5) : Nat := 8 * reg.toNat

/-- The bytes of a register (10_state.md R50), none at an address of no register. -/
def Chip.readReg (c : Chip) (y : Layout) (reg : BitVec 5) : List Byte :=
  c.regs.readBytes (regCell reg) (regWidth y reg)

/-- Byte 0 of a register. -/
def Chip.regByte (c : Chip) (reg : BitVec 5) : Byte := c.regs.read (regCell reg)

/-- The CONFIG byte (R51). -/
def Chip.config (c : Chip) (y : Layout) : Byte := c.regByte (y.addr .config)

/-- The STATUS byte (R56). -/
def Chip.status (c : Chip) (y : Layout) : Byte := c.regByte (y.addr .status)

/-- The chip with another STATUS byte. -/
def Chip.withStatus (c : Chip) (y : Layout) (v : Byte) : Chip :=
  { c with regs := c.regs.write (regCell (y.addr .status)) v }

/-- A register write as the reference chip does it: STATUS clears the flags written as 1 (20_memory.md R110),
any other register takes the bytes up to its width and keeps the others (R109). -/
def Chip.writeReg (c : Chip) (y : Layout) (reg : BitVec 5) (v : List Byte) : Chip :=
  if reg = y.addr .status then
    match v with
    | [] => c
    | b :: _ => c.withStatus y (statusClear y (c.status y) b)
  else { c with regs := c.regs.writeBytes (regCell reg) (v.take (regWidth y reg)) }

/-- The pipe STATUS.RX_P_NO names: that of the RX FIFO's head, 7 when it is empty (R111). -/
def headPipe : List RxEntry → BitVec 3
  | [] => 7
  | e :: _ => e.pipe

/-- The level of the IRQ line the reference chip drives (R114). -/
def Chip.irqLine (c : Chip) (y : Layout) : Bool := irqLineLevel y (c.status y) (c.config y)

/-! ### Elementary updates of the state -/

/-- Append an event to the trace (R18). -/
def State.emit (s : State) (e : Event) : State := { s with trace := s.trace ++ [e] }

/-- `Return(status, data)` to a host agent (00_scope.md R17, 30_encoding.md R122). -/
def State.respond (s : State) (a : Nat) (st : Status) (data : List Byte) : State := s.emit (.resp a st data)

/-- The exclusion in another state (R35). -/
def State.setLock (s : State) (l : Lock) : State := { s with lock := l }

/-- The chip in another state. -/
def State.setChip (s : State) (c : Chip) : State := { s with chip := c }

/-- `SetCE(b)` (R16, R39): the latch, the pin and the event. -/
def State.driveCe (s : State) (b : Bool) : State := ({ s with ce := b }).emit (.ce b)

/-- The sequencer of a host agent (R41): absent when Idle. -/
def lookupSeq : List (Nat × Busy) → Nat → Option Busy
  | [], _ => none
  | (k, b) :: m, a => if k = a then some b else lookupSeq m a

/-- A sequencer put in order of agent number. -/
def insertSeq : List (Nat × Busy) → Nat → Busy → List (Nat × Busy)
  | [], a, b => [(a, b)]
  | (k, b') :: m, a, b => if a < k then (a, b) :: (k, b') :: m else (k, b') :: insertSeq m a b

/-- Without the sequencer of an agent. -/
def eraseSeq (m : List (Nat × Busy)) (a : Nat) : List (Nat × Busy) := m.filter (fun e => decide (e.1 ≠ a))

/-- `seq[ag]`, `none` when Idle (R41). -/
def State.seqOf (s : State) : Agent → Option Busy
  | .host n => lookupSeq s.hostSeq n
  | .irq => s.irqSeq

/-- `seq[ag] <- b` (R41). -/
def State.setSeq (s : State) (ag : Agent) (b : Option Busy) : State :=
  match ag with
  | .host n =>
    { s with hostSeq :=
        match b with
        | none => eraseSeq s.hostSeq n
        | some b => insertSeq (eraseSeq s.hostSeq n) n b }
  | .irq => { s with irqSeq := b }

/-! ### Bus transactions -/

/-- Free bytes from the counter up (log entry 10). -/
def freeBytes (c : Nat) : Nat → List Byte
  | 0 => []
  | n + 1 => Config.freeByte c :: freeBytes (c + 1) n

/-- Exactly `rxLen` received bytes (20_memory.md R85): those given, then free ones. -/
def fitRx (rxLen : Nat) (rx : List Byte) (c : Nat) : List Byte :=
  rx.take rxLen ++ freeBytes c (rxLen - rx.length)

/-- The reference chip's read of the RX FIFO (R111). -/
def Chip.popRx (c : Chip) (y : Layout) : List Byte × Chip :=
  match c.rxFifo with
  | [] => ([], c.withStatus y (statusSetPipe (c.status y) 7))
  | e :: rest =>
    (e.data, ({ c with rxFifo := rest }).withStatus y (statusSetPipe (c.status y) (headPipe rest)))

/-- The reference chip's answer to a command frame (R108 to R112): the bytes it determines, and the state it
leaves. A frame that is no command changes nothing; the block emits none (30_encoding.md R137). -/
def chipAnswer (tx : List Byte) (s : State) : List Byte × State :=
  match decodeWire s.layout tx with
  | .ok (.rRegister r) => (s.chip.readReg s.layout r, s)
  | .ok (.wRegister r d) => ([], s.setChip (s.chip.writeReg s.layout r d))
  | .ok .rRxPayload => ((s.chip.popRx s.layout).1, s.setChip (s.chip.popRx s.layout).2)
  | .ok (.wTxPayload d) =>
    if s.chip.txFifo.length < Config.fifoDepth then
      ([], s.setChip { s.chip with txFifo := s.chip.txFifo ++ [d] })
    else
      let fifo := (Config.freeTxFifo s.free).take Config.fifoDepth
      ([], { s with chip := { s.chip with txFifo := fifo, held := min s.chip.held fifo.length },
                    free := s.free + 1 })
  | _ => ([], s)

/-- The outcome of a bus transaction (R85). -/
inductive TxnOut where
  | completed (rx : List Byte) (s : State)
  | failed (s : State)
  | hung (s : State)

/-- A transaction completes with exactly `rxLen` bytes (R85). -/
def completeTxn (rxLen : Nat) (rx : List Byte) (s : State) : TxnOut :=
  .completed (fitRx rxLen rx s.free) { s with free := s.free + (rxLen - rx.length) }

/-- A transaction the reference chip answers (R107: it completes). -/
def referenceTxn (tx : List Byte) (rxLen : Nat) (s : State) : TxnOut :=
  completeTxn rxLen (chipAnswer tx s).1 (chipAnswer tx s).2

/-- What becomes of a command frame on the wire: the environment's choice (R85). A transaction that fails has no
effect on the chip (20_memory.md R104, log entry 7). -/
def busOutcome (tx : List Byte) (rxLen : Nat) (s : State) : TxnOut :=
  match s.answers with
  | [] => referenceTxn tx rxLen s
  | .reference :: rest => referenceTxn tx rxLen { s with answers := rest }
  | .other rx chip :: rest => completeTxn rxLen rx { s with answers := rest, chip := chip }
  | .fail :: rest => .failed { s with answers := rest }
  | .hang :: rest => .hung { s with answers := rest }

/-- The `Txn` event, recorded when the transaction completes (R84); a failed one records none (60_exceptions.md
R313). -/
def TxnOut.record (tx : List Byte) (rxLen : Nat) : TxnOut → TxnOut
  | .completed rx s => .completed rx (s.emit (.txn tx rxLen rx))
  | .failed s => .failed s
  | .hung s => .hung s

/-- One bus transaction of the block, `Txn(tx, rxLen)` (R84). -/
def txn (tx : List Byte) (rxLen : Nat) (s : State) : TxnOut := (busOutcome tx rxLen s).record tx rxLen

/-! ### Primitives -/

/-- What a primitive did. -/
inductive PrimOut where
  /-- It completed; the sequencer goes on to the next one. -/
  | done (l : Locals) (s : State)
  /-- The operation aborts with a code while it holds the exclusion. -/
  | raise (c : Status) (s : State)
  /-- It cannot proceed yet: the exclusion is held. -/
  | wait
  /-- Its transaction never completes. -/
  | hung (s : State)
  /-- `Deliver` has handed the packet over; it completes when the consumer returns (42_transmit_receive.md R236). -/
  | handedOver (l : Locals) (s : State)

/-- What an operation returns as data (30_encoding.md R128). -/
inductive Ret where
  /-- No data. -/
  | nothing
  /-- A field of the byte read. -/
  | field (f : FieldName)
  /-- The bytes read. -/
  | bytes
deriving DecidableEq, Repr

/-- The response data from the bytes read. -/
def Ret.data (r : Ret) (y : Layout) (l : Locals) : List Byte :=
  match r with
  | .nothing => []
  | .field f => [(y.field f).extract (l.bytes.headD 0)]
  | .bytes => l.bytes

/-- The primitives of the operations' pseudocode (00_scope.md R16, R17). R16 and R17 list no assignment and no check;
which lines of the pseudocode take an index of their own is the model's (DESIGN CHOICE, log entry 16): each assignment
and each check after `Acquire()` does, `route` is two lines in one, and index 0 is `Acquire()`, in the handler
`takeEdge`. -/
inductive Prim where
  /-- `Acquire()`. -/
  | acquire
  /-- `Release()`. -/
  | release
  /-- `if st.faulted` after `Acquire()` (41_device_config.md R190). -/
  | checkFaulted
  /-- `if d.op = INIT and st.fsm != Uninitialized` after `Acquire()` (R190). -/
  | checkUninitialized
  /-- `if st.faulted or st.fsm != ConfiguredRx` at handler entry (60_exceptions.md R325). -/
  | checkReceive
  /-- `st.irqPending <- st.irqPending - 1` (R325). -/
  | takeEdge
  /-- `st.packetSize <- n` (R192). -/
  | setPacketSize (n : Nat)
  /-- `MemRead(reg, n)` (20_memory.md R82). -/
  | memRead (reg : Reg) (n : Nat)
  /-- `MemWrite(reg, 1, [insert(old, mask, shift, val)])` (40_codec.md R171). -/
  | writeField (reg : Reg) (f : FieldName) (val : Byte)
  /-- `MemWrite(reg, w, a ++ old[len(a) .. w-1])` (R173). -/
  | writeAddr (reg : Reg) (w : Nat) (a : List Byte)
  /-- `MemWrite(REG_STATUS, 1, [0x40])`, direct: a 1 in the RX-ready bit (42_transmit_receive.md R235, D16). -/
  | clearRxReady
  /-- `BusCmd(OPC_W_TX_PAYLOAD, 0x00, payload, 0)` (R231). -/
  | writeTx (payload : List Byte)
  /-- `BusCmd(OPC_R_RX_PAYLOAD, 0x00, [], st.packetSize)` (R235). -/
  | readRx
  /-- `SetCE(b)` (R16). -/
  | setCe (b : Bool)
  /-- `if CE_AFTER_SEND = High: SetCE(True)` (R231). -/
  | ceAfterSend
  /-- `Delay(name)` (R16). -/
  | delay (d : DelayName)
  /-- `st.fsm <- f`. -/
  | setFsm (f : Fsm)
  /-- `st.edgeArmed <- True` (R192). -/
  | arm
  /-- `st.consumerRegistered <- True` (R234). -/
  | registerConsumer
  /-- `reg <- st.consumerRegistered; if not reg: st.droppedCount <- st.droppedCount + 1` (R235). -/
  | route
  /-- `if reg: Deliver(pkt) else: Drop(pkt)` (R235), the drain's last primitive: `Drop` completes at once, `Deliver`
  when the consumer returns (R236). -/
  | deliverOrDrop
  /-- `Return(OK, data)` (R190). -/
  | respond (r : Ret)
deriving DecidableEq, Repr

/-- `raise BusError` (60_exceptions.md R313): the block is faulted for good and the operation aborts with
E_BUS. This is the one place where `faulted` is set. -/
def raiseBusError (s : State) : PrimOut := .raise .bus { s with faulted := true }

/-- A bus transaction as a primitive; `k` takes the received bytes into the locals. -/
def busPrim (tx : List Byte) (rxLen : Nat) (k : List Byte → Locals) (s : State) : PrimOut :=
  match txn tx rxLen s with
  | .completed rx s' => .done (k rx) s'
  | .failed s' => raiseBusError s'
  | .hung s' => .hung s'

/-- The chip is powered up with its working mode bit as given (20_memory.md R113, R115: CONFIG bits 1 and 0). -/
def Chip.isUp (c : Chip) (y : Layout) (workingMode : Byte) : Bool :=
  decide (decodePowerMode y (c.config y) = 1) && decide (decodeWorkingMode y (c.config y) = workingMode)

/-- Chip-enable has been high for `T_CE_HOLD`, in power mode Up and Transmit mode: the reference chip may transmit
what its TX FIFO holds (R115). -/
def Chip.noteHold (c : Chip) (y : Layout) (ce : Bool) : Chip :=
  if ce && c.isUp y 0 then { c with held := c.txFifo.length } else c

/-- `Delay(name)`: the event; and for `T_CE_HOLD` the chip has seen the hold. -/
def State.doDelay (s : State) (d : DelayName) : State :=
  match d with
  | .ceHold => (s.setChip (s.chip.noteHold s.layout s.ce)).emit (.delay d)
  | .initSettle => s.emit (.delay d)

/-- The frame of `MemRead(reg, n)` (20_memory.md R82, 30_encoding.md R138). -/
def State.readFrame (s : State) (reg : Reg) : List Byte :=
  encodeCmd s.layout.opcRRegister ((s.layout.addr reg).setWidth 8) []

/-- The frame of `MemWrite(reg, n, v)` (R83, R139). -/
def State.writeFrame (s : State) (reg : Reg) (v : List Byte) : List Byte :=
  encodeCmd s.layout.opcWRegister ((s.layout.addr reg).setWidth 8) v

/-- One primitive of an agent's operation. -/
def execPrim (ag : Agent) (p : Prim) (l : Locals) (s : State) : PrimOut :=
  match p with
  | .acquire => if s.lock = .free then .done l (s.setLock (.held ag)) else .wait
  | .release => .done l (s.setLock .free)
  | .checkFaulted => if s.faulted then .raise .faulted s else .done l s
  | .checkUninitialized => if s.fsm = .uninitialized then .done l s else .raise .alreadyInitialized s
  | .checkReceive => if s.faulted = true ∨ s.fsm ≠ .configuredRx then .raise .faulted s else .done l s
  | .takeEdge => .done l { s with irqPending := s.irqPending - 1 }
  | .setPacketSize n => .done l { s with packetSize := n }
  | .memRead reg n => busPrim (s.readFrame reg) n (fun rx => { l with bytes := rx }) s
  | .writeField reg f val =>
    busPrim (s.writeFrame reg [(s.layout.field f).put (l.bytes.headD 0) val]) 0 (fun _ => l) s
  | .writeAddr reg w a => busPrim (s.writeFrame reg (addrMerge w a l.bytes)) 0 (fun _ => l) s
  | .clearRxReady => busPrim (s.writeFrame .status [(s.layout.field .rxReady).mask]) 0 (fun _ => l) s
  | .writeTx d => busPrim (encodeCmd s.layout.opcWTxPayload 0 d) 0 (fun _ => l) s
  | .readRx =>
    busPrim (encodeCmd s.layout.opcRRxPayload 0 []) s.packetSize (fun rx => { l with bytes := rx }) s
  | .setCe b => .done l (s.driveCe b)
  | .ceAfterSend => .done l (if s.params.ceAfterSendHigh then s.driveCe true else s)
  | .delay d => .done l (s.doDelay d)
  | .setFsm f => .done l { s with fsm := f }
  | .arm => .done l { s with edgeArmed := true }
  | .registerConsumer => .done l { s with consumerRegistered := true }
  | .route =>
    .done { l with deliver := s.consumerRegistered }
      (if s.consumerRegistered then s else { s with droppedCount := s.droppedCount + 1 })
  | .deliverOrDrop =>
    if l.deliver then .handedOver l (s.emit (.deliver l.bytes)) else .done l (s.emit (.drop l.bytes))
  | .respond r =>
    match ag with
    | .host n => .done l (s.respond n .ok (r.data s.layout l))
    | .irq => .done l s

/-- `RMW1(reg, mask, shift, val)` (40_codec.md R171): the read, the insertion, the write. `RMWBit(reg, b, v)` is this
of a one-bit field (R172). -/
def rmw1 (reg : Reg) (f : FieldName) (val : Byte) : List Prim := [.memRead reg 1, .writeField reg f val]

/-- `RMWAddr(reg, w, a)` (R173). -/
def rmwAddr (reg : Reg) (w : Nat) (a : List Byte) : List Prim := [.memRead reg w, .writeAddr reg w a]

/-- `SetWorkingMode(m)` (41_device_config.md R191): an internal step with no op code. -/
def setWorkingMode (receive : Bool) : List Prim :=
  rmw1 .config .workingMode (if receive then 1 else 0)

/-- The shell of a host operation from `Acquire()` on (R190). -/
def shell (body : List Prim) (ret : Ret) : List Prim :=
  [.acquire, .checkFaulted] ++ body ++ [.release, .respond ret]

/-- The operation ends in a response frame (30_encoding.md R120); the RX drain has no caller (42 R235). -/
def Op.responds : Op → Bool
  | .instr _ => true
  | .drain => false

/-- The end of an operation that does not hold the exclusion: its code to the caller, if there is one. -/
def returnCode (ag : Agent) (op : Op) (c : Status) (s : State) : State :=
  match ag with
  | .host n => if op.responds then s.respond n c [] else s
  | .irq => s

/-- The return beside taking an error (41_device_config.md R190): `Release()`, then the code. -/
def finishRaise (ag : Agent) (op : Op) (c : Status) (s : State) : State :=
  returnCode ag op c (s.setLock .free)

/-- An agent runs the primitives of its operation one after another, from index `k`, until it ends, aborts, must
wait for the exclusion or hangs; in the last two cases its sequencer stays where it is (10_state.md R41). A consumer
returns at once (log entry 18). -/
def run (ag : Agent) (op : Op) : Nat → List Prim → Locals → State → State
  | _, [], _, s => s
  | k, p :: ps, l, s =>
    match execPrim ag p l s with
    | .done l' s' => run ag op (k + 1) ps l' s'
    | .raise c s' => finishRaise ag op c s'
    | .wait => s.setSeq ag (some ⟨op, k, l, .main⟩)
    | .hung s' => s'.setSeq ag (some ⟨op, k, l, .hung⟩)
    | .handedOver l' s' => run ag op (k + 1) ps l' s'

/-! ### The RX drain (R235) and handler entry (60_exceptions.md R325) -/

/-- Body of the RX drain (R235, steps 1 to 4 and the choice of step 5). -/
def bodyDrain : List Prim :=
  [.setCe false, .readRx, .clearRxReady, .setCe true, .route]

/-- The handler (60_exceptions.md R325, R327): the edge taken, the exclusion acquired, the mode tested, the RX
drain, the exclusion released, then the hand-off outside it (42_transmit_receive.md R236). -/
def handlerProgram : List Prim :=
  [.takeEdge, .acquire, .checkReceive] ++ bodyDrain ++ [.release, .deliverOrDrop]

/-- Handler entry (60_exceptions.md R325): the IRQ agent, when Idle and an edge is pending, runs its handler. -/
def takeInterrupt (s : State) : State :=
  if s.irqSeq = none ∧ 0 < s.irqPending then run .irq .drain 0 handlerProgram Locals.start s else s

/-! ### The two forms of meaning -/

/-- The meaning of a host operation (R190): what validation raises is returned with no other effect
(60_exceptions.md R312); otherwise the operation runs. -/
def hostOp (i : Instr) (check : Option Status) (body : List Prim) (ret : Ret) (s : State) :
    Host.Outcome State Fault Refusal :=
  match check with
  | some c => .next (s.respond s.requester c [])
  | none => .next (run (.host s.requester) (.instr i) 0 (shell body ret) Locals.start s)

/-- The meaning of a wire command as an instruction of its own: its frame reaches the chip from outside the block,
which neither records it nor gives it a response; the environment's answer is all (log entry 13). -/
def wireOp (tx : List Byte) (rxLen : Nat) (s : State) : Host.Outcome State Fault Refusal :=
  match busOutcome tx rxLen s with
  | .completed rx t => .next { t with wireRx := rx }
  | .failed t => .next t
  | .hung t => .next t

end Sys2Proof.Machine
end

