-- ==== Sys2Proof/Machine/Device.lean ====
section
/-! DEFINITION. INIT and the device configuration operations (41_device_config.md R192 to R201). Each operation has its
validation, its body as the primitives of the rule's pseudocode, and its meaning. -/

namespace Sys2Proof.Machine

open Sys2Proof

/-! ### INIT (41_device_config.md R192) -/

/-- Validation of INIT: frame refusals, state, values (30_encoding.md R124, 60_exceptions.md R323). -/
def checkInit (pipe : BitVec 3) (args : List Byte) (s : State) : Option Status :=
  firstError [deviceFrame pipe args 4,
    faultedCheck s,
    uninitializedCheck s,
    payloadSizeCheck (argNat args 0),
    channelCheck (argNat args 1),
    enumCheck 3 (argNat args 2),
    enumCheck 1 (argNat args 3)]

/-- Body of INIT (41_device_config.md R192). It begins with the shell's second state check, which R190 makes of INIT only. -/
def bodyInit (_pipe : BitVec 3) (args : List Byte) : List Prim :=
  [.checkUninitialized, .setPacketSize (argNat args 0)] ++
  rmw1 .rfSetup .outputPower (arg args 2) ++
  rmw1 .rfSetup .dataRate (arg args 3) ++
  rmw1 .rfCh .channel (arg args 1) ++
  setWorkingMode true ++
  rmw1 .config .powerMode 1 ++
  [.delay .initSettle, .setCe true, .arm, .setFsm .configuredRx]

/-- INIT (41_device_config.md R192). -/
def execInit (pipe : BitVec 3) (args : List Byte) (s : State) : Host.Outcome State Fault Refusal :=
  hostOp (.init pipe args) (checkInit pipe args s) (bodyInit pipe args) .nothing s

/-! ### SET_CHANNEL (41_device_config.md R193) -/

/-- Validation of SET_CHANNEL: frame refusals, state, values (30_encoding.md R124, 60_exceptions.md R323). -/
def checkSetChannel (pipe : BitVec 3) (args : List Byte) (s : State) : Option Status :=
  firstError [deviceFrame pipe args 1,
    faultedCheck s,
    initializedCheck s,
    channelCheck (argNat args 0)]

/-- Body of SET_CHANNEL (41_device_config.md R193). -/
def bodySetChannel (_pipe : BitVec 3) (args : List Byte) : List Prim :=
  rmw1 .rfCh .channel (arg args 0)

/-- SET_CHANNEL (41_device_config.md R193). -/
def execSetChannel (pipe : BitVec 3) (args : List Byte) (s : State) : Host.Outcome State Fault Refusal :=
  hostOp (.setChannel pipe args) (checkSetChannel pipe args s) (bodySetChannel pipe args) .nothing s

/-! ### GET_CHANNEL (41_device_config.md R194) -/

/-- Validation of GET_CHANNEL: frame refusals, state, values (30_encoding.md R124, 60_exceptions.md R323). -/
def checkGetChannel (pipe : BitVec 3) (args : List Byte) (s : State) : Option Status :=
  firstError [deviceFrame pipe args 0,
    faultedCheck s,
    initializedCheck s]

/-- Body of GET_CHANNEL (41_device_config.md R194). -/
def bodyGetChannel (_pipe : BitVec 3) (_args : List Byte) : List Prim :=
  [.memRead .rfCh 1]

/-- GET_CHANNEL (41_device_config.md R194). -/
def execGetChannel (pipe : BitVec 3) (args : List Byte) (s : State) : Host.Outcome State Fault Refusal :=
  hostOp (.getChannel pipe args) (checkGetChannel pipe args s) (bodyGetChannel pipe args) (.field .channel) s

/-! ### SET_OUTPUT_POWER (41_device_config.md R195) -/

/-- Validation of SET_OUTPUT_POWER: frame refusals, state, values (30_encoding.md R124, 60_exceptions.md R323). -/
def checkSetOutputPower (pipe : BitVec 3) (args : List Byte) (s : State) : Option Status :=
  firstError [deviceFrame pipe args 1,
    faultedCheck s,
    initializedCheck s,
    enumCheck 3 (argNat args 0)]

/-- Body of SET_OUTPUT_POWER (41_device_config.md R195). -/
def bodySetOutputPower (_pipe : BitVec 3) (args : List Byte) : List Prim :=
  rmw1 .rfSetup .outputPower (arg args 0)

/-- SET_OUTPUT_POWER (41_device_config.md R195). -/
def execSetOutputPower (pipe : BitVec 3) (args : List Byte) (s : State) : Host.Outcome State Fault Refusal :=
  hostOp (.setOutputPower pipe args) (checkSetOutputPower pipe args s) (bodySetOutputPower pipe args) .nothing s

/-! ### GET_OUTPUT_POWER (41_device_config.md R196) -/

/-- Validation of GET_OUTPUT_POWER: frame refusals, state, values (30_encoding.md R124, 60_exceptions.md R323). -/
def checkGetOutputPower (pipe : BitVec 3) (args : List Byte) (s : State) : Option Status :=
  firstError [deviceFrame pipe args 0,
    faultedCheck s,
    initializedCheck s]

/-- Body of GET_OUTPUT_POWER (41_device_config.md R196). -/
def bodyGetOutputPower (_pipe : BitVec 3) (_args : List Byte) : List Prim :=
  [.memRead .rfSetup 1]

/-- GET_OUTPUT_POWER (41_device_config.md R196). -/
def execGetOutputPower (pipe : BitVec 3) (args : List Byte) (s : State) : Host.Outcome State Fault Refusal :=
  hostOp (.getOutputPower pipe args) (checkGetOutputPower pipe args s) (bodyGetOutputPower pipe args) (.field .outputPower) s

/-! ### SET_DATA_RATE (41_device_config.md R197) -/

/-- Validation of SET_DATA_RATE: frame refusals, state, values (30_encoding.md R124, 60_exceptions.md R323). -/
def checkSetDataRate (pipe : BitVec 3) (args : List Byte) (s : State) : Option Status :=
  firstError [deviceFrame pipe args 1,
    faultedCheck s,
    initializedCheck s,
    enumCheck 1 (argNat args 0)]

/-- Body of SET_DATA_RATE (41_device_config.md R197). -/
def bodySetDataRate (_pipe : BitVec 3) (args : List Byte) : List Prim :=
  rmw1 .rfSetup .dataRate (arg args 0)

/-- SET_DATA_RATE (41_device_config.md R197). -/
def execSetDataRate (pipe : BitVec 3) (args : List Byte) (s : State) : Host.Outcome State Fault Refusal :=
  hostOp (.setDataRate pipe args) (checkSetDataRate pipe args s) (bodySetDataRate pipe args) .nothing s

/-! ### GET_DATA_RATE (41_device_config.md R198) -/

/-- Validation of GET_DATA_RATE: frame refusals, state, values (30_encoding.md R124, 60_exceptions.md R323). -/
def checkGetDataRate (pipe : BitVec 3) (args : List Byte) (s : State) : Option Status :=
  firstError [deviceFrame pipe args 0,
    faultedCheck s,
    initializedCheck s]

/-- Body of GET_DATA_RATE (41_device_config.md R198). -/
def bodyGetDataRate (_pipe : BitVec 3) (_args : List Byte) : List Prim :=
  [.memRead .rfSetup 1]

/-- GET_DATA_RATE (41_device_config.md R198). -/
def execGetDataRate (pipe : BitVec 3) (args : List Byte) (s : State) : Host.Outcome State Fault Refusal :=
  hostOp (.getDataRate pipe args) (checkGetDataRate pipe args s) (bodyGetDataRate pipe args) (.field .dataRate) s

/-! ### SET_POWER_MODE (41_device_config.md R199) -/

/-- Validation of SET_POWER_MODE: frame refusals, state, values (30_encoding.md R124, 60_exceptions.md R323). -/
def checkSetPowerMode (pipe : BitVec 3) (args : List Byte) (s : State) : Option Status :=
  firstError [deviceFrame pipe args 1,
    faultedCheck s,
    initializedCheck s,
    enumCheck 1 (argNat args 0)]

/-- Body of SET_POWER_MODE (41_device_config.md R199). -/
def bodySetPowerMode (_pipe : BitVec 3) (args : List Byte) : List Prim :=
  rmw1 .config .powerMode (arg args 0)

/-- SET_POWER_MODE (41_device_config.md R199). -/
def execSetPowerMode (pipe : BitVec 3) (args : List Byte) (s : State) : Host.Outcome State Fault Refusal :=
  hostOp (.setPowerMode pipe args) (checkSetPowerMode pipe args s) (bodySetPowerMode pipe args) .nothing s

/-! ### GET_POWER_MODE (41_device_config.md R200) -/

/-- Validation of GET_POWER_MODE: frame refusals, state, values (30_encoding.md R124, 60_exceptions.md R323). -/
def checkGetPowerMode (pipe : BitVec 3) (args : List Byte) (s : State) : Option Status :=
  firstError [deviceFrame pipe args 0,
    faultedCheck s,
    initializedCheck s]

/-- Body of GET_POWER_MODE (41_device_config.md R200). -/
def bodyGetPowerMode (_pipe : BitVec 3) (_args : List Byte) : List Prim :=
  [.memRead .config 1]

/-- GET_POWER_MODE (41_device_config.md R200). -/
def execGetPowerMode (pipe : BitVec 3) (args : List Byte) (s : State) : Host.Outcome State Fault Refusal :=
  hostOp (.getPowerMode pipe args) (checkGetPowerMode pipe args s) (bodyGetPowerMode pipe args) (.field .powerMode) s

/-! ### GET_WORKING_MODE (41_device_config.md R201) -/

/-- Validation of GET_WORKING_MODE: frame refusals, state, values (30_encoding.md R124, 60_exceptions.md R323). -/
def checkGetWorkingMode (pipe : BitVec 3) (args : List Byte) (s : State) : Option Status :=
  firstError [deviceFrame pipe args 0,
    faultedCheck s,
    initializedCheck s]

/-- Body of GET_WORKING_MODE (41_device_config.md R201). -/
def bodyGetWorkingMode (_pipe : BitVec 3) (_args : List Byte) : List Prim :=
  [.memRead .config 1]

/-- GET_WORKING_MODE (41_device_config.md R201). -/
def execGetWorkingMode (pipe : BitVec 3) (args : List Byte) (s : State) : Host.Outcome State Fault Refusal :=
  hostOp (.getWorkingMode pipe args) (checkGetWorkingMode pipe args s) (bodyGetWorkingMode pipe args) (.field .workingMode) s

end Sys2Proof.Machine
end

