-- ==== Sys2Proof/Machine/PipeOps.lean ====
section
/-! DEFINITION. The pipe accessor operations (43_pipe.md R270 to R278). -/

namespace Sys2Proof.Machine

open Sys2Proof

/-! ### PIPE_GET_ADDRESS (43_pipe.md R271) -/

/-- Validation of PIPE_GET_ADDRESS: frame refusals, state, values (30_encoding.md R124, 60_exceptions.md R323). -/
def checkPipeGetAddress (pipe : BitVec 3) (args : List Byte) (s : State) : Option Status :=
  firstError [pipeFrame args 0,
    faultedCheck s,
    initializedCheck s,
    pipeCheck pipe]

/-- Body of PIPE_GET_ADDRESS (43_pipe.md R271). -/
def bodyPipeGetAddress (pipe : BitVec 3) (_args : List Byte) : List Prim :=
  [.memRead (.rxAddr pipe) (addrWidth pipe)]

/-- PIPE_GET_ADDRESS (43_pipe.md R271). -/
def execPipeGetAddress (pipe : BitVec 3) (args : List Byte) (s : State) : Host.Outcome State Fault Refusal :=
  hostOp (.pipeGetAddress pipe args) (checkPipeGetAddress pipe args s) (bodyPipeGetAddress pipe args) .bytes s

/-! ### PIPE_SET_ADDRESS (43_pipe.md R272) -/

/-- Validation of PIPE_SET_ADDRESS: frame refusals, state, values (30_encoding.md R124, 60_exceptions.md R323). -/
def checkPipeSetAddress (pipe : BitVec 3) (args : List Byte) (s : State) : Option Status :=
  firstError [faultedCheck s,
    initializedCheck s,
    pipeCheck pipe,
    addressLengthCheck pipe args.length]

/-- Body of PIPE_SET_ADDRESS (43_pipe.md R272). -/
def bodyPipeSetAddress (pipe : BitVec 3) (args : List Byte) : List Prim :=
  rmwAddr (.rxAddr pipe) (addrWidth pipe) args

/-- PIPE_SET_ADDRESS (43_pipe.md R272). -/
def execPipeSetAddress (pipe : BitVec 3) (args : List Byte) (s : State) : Host.Outcome State Fault Refusal :=
  hostOp (.pipeSetAddress pipe args) (checkPipeSetAddress pipe args s) (bodyPipeSetAddress pipe args) .nothing s

/-! ### PIPE_GET_AUTOACK (43_pipe.md R273) -/

/-- Validation of PIPE_GET_AUTOACK: frame refusals, state, values (30_encoding.md R124, 60_exceptions.md R323). -/
def checkPipeGetAutoack (pipe : BitVec 3) (args : List Byte) (s : State) : Option Status :=
  firstError [pipeFrame args 0,
    faultedCheck s,
    initializedCheck s,
    pipeCheck pipe]

/-- Body of PIPE_GET_AUTOACK (43_pipe.md R273). -/
def bodyPipeGetAutoack (_pipe : BitVec 3) (_args : List Byte) : List Prim :=
  [.memRead .enAa 1]

/-- PIPE_GET_AUTOACK (43_pipe.md R273). -/
def execPipeGetAutoack (pipe : BitVec 3) (args : List Byte) (s : State) : Host.Outcome State Fault Refusal :=
  hostOp (.pipeGetAutoack pipe args) (checkPipeGetAutoack pipe args s) (bodyPipeGetAutoack pipe args)
    (.field (.autoAck pipe)) s

/-! ### PIPE_SET_AUTOACK (43_pipe.md R274) -/

/-- Validation of PIPE_SET_AUTOACK: frame refusals, state, values (30_encoding.md R124, 60_exceptions.md R323). -/
def checkPipeSetAutoack (pipe : BitVec 3) (args : List Byte) (s : State) : Option Status :=
  firstError [pipeFrame args 1,
    faultedCheck s,
    initializedCheck s,
    pipeCheck pipe,
    enumCheck 1 (argNat args 0)]

/-- Body of PIPE_SET_AUTOACK (43_pipe.md R274). -/
def bodyPipeSetAutoack (pipe : BitVec 3) (args : List Byte) : List Prim :=
  rmw1 .enAa (.autoAck pipe) (arg args 0)

/-- PIPE_SET_AUTOACK (43_pipe.md R274). -/
def execPipeSetAutoack (pipe : BitVec 3) (args : List Byte) (s : State) : Host.Outcome State Fault Refusal :=
  hostOp (.pipeSetAutoack pipe args) (checkPipeSetAutoack pipe args s) (bodyPipeSetAutoack pipe args) .nothing s

/-! ### PIPE_GET_PAYLOAD_SIZE (43_pipe.md R275) -/

/-- Validation of PIPE_GET_PAYLOAD_SIZE: frame refusals, state, values (30_encoding.md R124, 60_exceptions.md R323). -/
def checkPipeGetPayloadSize (pipe : BitVec 3) (args : List Byte) (s : State) : Option Status :=
  firstError [pipeFrame args 0,
    faultedCheck s,
    initializedCheck s,
    pipeCheck pipe]

/-- Body of PIPE_GET_PAYLOAD_SIZE (43_pipe.md R275). -/
def bodyPipeGetPayloadSize (pipe : BitVec 3) (_args : List Byte) : List Prim :=
  [.memRead (.rxPw pipe) 1]

/-- PIPE_GET_PAYLOAD_SIZE (43_pipe.md R275). -/
def execPipeGetPayloadSize (pipe : BitVec 3) (args : List Byte) (s : State) : Host.Outcome State Fault Refusal :=
  hostOp (.pipeGetPayloadSize pipe args) (checkPipeGetPayloadSize pipe args s) (bodyPipeGetPayloadSize pipe args)
    (.field .payloadSize) s

/-! ### PIPE_SET_PAYLOAD_SIZE (43_pipe.md R276) -/

/-- Validation of PIPE_SET_PAYLOAD_SIZE: frame refusals, state, values (30_encoding.md R124, 60_exceptions.md R323). -/
def checkPipeSetPayloadSize (pipe : BitVec 3) (args : List Byte) (s : State) : Option Status :=
  firstError [pipeFrame args 1,
    faultedCheck s,
    initializedCheck s,
    pipeCheck pipe,
    payloadSizeCheck (argNat args 0)]

/-- Body of PIPE_SET_PAYLOAD_SIZE (43_pipe.md R276). -/
def bodyPipeSetPayloadSize (pipe : BitVec 3) (args : List Byte) : List Prim :=
  rmw1 (.rxPw pipe) .payloadSize (arg args 0)

/-- PIPE_SET_PAYLOAD_SIZE (43_pipe.md R276). -/
def execPipeSetPayloadSize (pipe : BitVec 3) (args : List Byte) (s : State) : Host.Outcome State Fault Refusal :=
  hostOp (.pipeSetPayloadSize pipe args) (checkPipeSetPayloadSize pipe args s) (bodyPipeSetPayloadSize pipe args) .nothing s

/-! ### PIPE_GET_ENABLED (43_pipe.md R277) -/

/-- Validation of PIPE_GET_ENABLED: frame refusals, state, values (30_encoding.md R124, 60_exceptions.md R323). -/
def checkPipeGetEnabled (pipe : BitVec 3) (args : List Byte) (s : State) : Option Status :=
  firstError [pipeFrame args 0,
    faultedCheck s,
    initializedCheck s,
    pipeCheck pipe]

/-- Body of PIPE_GET_ENABLED (43_pipe.md R277). -/
def bodyPipeGetEnabled (_pipe : BitVec 3) (_args : List Byte) : List Prim :=
  [.memRead .enRxaddr 1]

/-- PIPE_GET_ENABLED (43_pipe.md R277). -/
def execPipeGetEnabled (pipe : BitVec 3) (args : List Byte) (s : State) : Host.Outcome State Fault Refusal :=
  hostOp (.pipeGetEnabled pipe args) (checkPipeGetEnabled pipe args s) (bodyPipeGetEnabled pipe args)
    (.field (.enabled pipe)) s

/-! ### PIPE_SET_ENABLED (43_pipe.md R278) -/

/-- Validation of PIPE_SET_ENABLED: frame refusals, state, values (30_encoding.md R124, 60_exceptions.md R323). -/
def checkPipeSetEnabled (pipe : BitVec 3) (args : List Byte) (s : State) : Option Status :=
  firstError [pipeFrame args 1,
    faultedCheck s,
    initializedCheck s,
    pipeCheck pipe,
    enumCheck 1 (argNat args 0)]

/-- Body of PIPE_SET_ENABLED (43_pipe.md R278). -/
def bodyPipeSetEnabled (pipe : BitVec 3) (args : List Byte) : List Prim :=
  rmw1 .enRxaddr (.enabled pipe) (arg args 0)

/-- PIPE_SET_ENABLED (43_pipe.md R278). -/
def execPipeSetEnabled (pipe : BitVec 3) (args : List Byte) (s : State) : Host.Outcome State Fault Refusal :=
  hostOp (.pipeSetEnabled pipe args) (checkPipeSetEnabled pipe args s) (bodyPipeSetEnabled pipe args) .nothing s

end Sys2Proof.Machine
end

