-- ==== Sys2Proof/Machine/Reserved.lean ====
section
/-! DEFINITION. The reserved host op codes (30_encoding.md R129): each is answered with E_ILLEGAL_OP and has no other
effect (R124). -/

namespace Sys2Proof.Machine

open Sys2Proof

/-- The frame refusal of a reserved op code (R124, R129): the response is all. -/
def refuseReserved (s : State) : Host.Outcome State Fault Refusal := .next (s.respond s.requester .illegalOp [])

/-- Reserved op 0x00 (R129). -/
def execReservedOp00 (_pipe : BitVec 3) (_args : List Byte) (s : State) : Host.Outcome State Fault Refusal :=
  refuseReserved s

/-- Reserved op 0x0D (R129). -/
def execReservedOp0D (_pipe : BitVec 3) (_args : List Byte) (s : State) : Host.Outcome State Fault Refusal :=
  refuseReserved s

/-- Reserved op 0x0E (R129). -/
def execReservedOp0E (_pipe : BitVec 3) (_args : List Byte) (s : State) : Host.Outcome State Fault Refusal :=
  refuseReserved s

/-- Reserved op 0x0F (R129). -/
def execReservedOp0F (_pipe : BitVec 3) (_args : List Byte) (s : State) : Host.Outcome State Fault Refusal :=
  refuseReserved s

/-- Reserved op 0x18 (R129). -/
def execReservedOp18 (_pipe : BitVec 3) (_args : List Byte) (s : State) : Host.Outcome State Fault Refusal :=
  refuseReserved s

/-- Reserved op 0x19 (R129). -/
def execReservedOp19 (_pipe : BitVec 3) (_args : List Byte) (s : State) : Host.Outcome State Fault Refusal :=
  refuseReserved s

/-- Reserved op 0x1A (R129). -/
def execReservedOp1A (_pipe : BitVec 3) (_args : List Byte) (s : State) : Host.Outcome State Fault Refusal :=
  refuseReserved s

/-- Reserved op 0x1B (R129). -/
def execReservedOp1B (_pipe : BitVec 3) (_args : List Byte) (s : State) : Host.Outcome State Fault Refusal :=
  refuseReserved s

/-- Reserved op 0x1C (R129). -/
def execReservedOp1C (_pipe : BitVec 3) (_args : List Byte) (s : State) : Host.Outcome State Fault Refusal :=
  refuseReserved s

/-- Reserved op 0x1D (R129). -/
def execReservedOp1D (_pipe : BitVec 3) (_args : List Byte) (s : State) : Host.Outcome State Fault Refusal :=
  refuseReserved s

/-- Reserved op 0x1E (R129). -/
def execReservedOp1E (_pipe : BitVec 3) (_args : List Byte) (s : State) : Host.Outcome State Fault Refusal :=
  refuseReserved s

/-- Reserved op 0x1F (R129). -/
def execReservedOp1F (_pipe : BitVec 3) (_args : List Byte) (s : State) : Host.Outcome State Fault Refusal :=
  refuseReserved s

end Sys2Proof.Machine
end

