-- ==== Sys2Proof/Machine/Transfer.lean ====
section
/-! DEFINITION. SEND and REGISTER_CONSUMER (42_transmit_receive.md R231, R234). The RX drain and handler entry stand in
Machine/Ops.lean. -/

namespace Sys2Proof.Machine

open Sys2Proof

/-! ### SEND (42_transmit_receive.md R231) -/

/-- Validation of SEND: frame refusals, state, values (30_encoding.md R124, 60_exceptions.md R323). -/
def checkSend (pipe : BitVec 3) (args : List Byte) (s : State) : Option Status :=
  firstError [deviceFrameAnyLength pipe,
    faultedCheck s,
    initializedCheck s,
    sendLengthCheck args.length s.packetSize]

/-- Body of SEND (42_transmit_receive.md R231). -/
def bodySend (_pipe : BitVec 3) (args : List Byte) : List Prim :=
  setWorkingMode false ++
  [.setFsm .configuredTx, .setCe false, .writeTx args, .setCe true, .delay .ceHold, .setCe false] ++
  setWorkingMode true ++
  [.setFsm .configuredRx, .ceAfterSend]

/-- SEND (42_transmit_receive.md R231). -/
def execSend (pipe : BitVec 3) (args : List Byte) (s : State) : Host.Outcome State Fault Refusal :=
  hostOp (.send pipe args) (checkSend pipe args s) (bodySend pipe args) .nothing s

/-! ### REGISTER_CONSUMER (42_transmit_receive.md R234) -/

/-- Validation of REGISTER_CONSUMER: frame refusals, state, values (30_encoding.md R124, 60_exceptions.md R323). -/
def checkRegisterConsumer (pipe : BitVec 3) (args : List Byte) (s : State) : Option Status :=
  firstError [deviceFrame pipe args 0,
    faultedCheck s]

/-- Body of REGISTER_CONSUMER (42_transmit_receive.md R234). It holds the exclusion and makes no wire event. -/
def bodyRegisterConsumer (_pipe : BitVec 3) (_args : List Byte) : List Prim :=
  [.registerConsumer]

/-- REGISTER_CONSUMER (42_transmit_receive.md R234). -/
def execRegisterConsumer (pipe : BitVec 3) (args : List Byte) (s : State) : Host.Outcome State Fault Refusal :=
  hostOp (.registerConsumer pipe args) (checkRegisterConsumer pipe args s) (bodyRegisterConsumer pipe args) .nothing s

end Sys2Proof.Machine
end

