-- ==== Sys2Proof/Machine/Wire.lean ====
section
/-! DEFINITION. The wire commands (30_encoding.md R138 to R141) as instructions of their own: the frame reaches the chip
from outside the block, which itself emits them inside its operations only (log entry 13; 20_memory.md R95: a register
address is used as encoded). -/

namespace Sys2Proof.Machine

open Sys2Proof

/-- How many bytes R_REGISTER asks for: the register's width (30_encoding.md R138), any number at an address of
no register of 10_state.md R50 (log entry 9). -/
def readLength (y : Layout) (reg : BitVec 5) : Nat :=
  if regWidth y reg = 0 then Config.freeWidth reg else regWidth y reg

/-- R_REGISTER (30_encoding.md R138). -/
def execRRegister (reg : BitVec 5) (s : State) : Host.Outcome State Fault Refusal :=
  wireOp (encodeCmd s.layout.opcRRegister (reg.setWidth 8) []) (readLength s.layout reg) s

/-- W_REGISTER (30_encoding.md R139). -/
def execWRegister (reg : BitVec 5) (data : List Byte) (s : State) : Host.Outcome State Fault Refusal :=
  wireOp (encodeCmd s.layout.opcWRegister (reg.setWidth 8) data) 0 s

/-- R_RX_PAYLOAD: `rxLen = st.packetSize` (30_encoding.md R140). -/
def execRRxPayload (s : State) : Host.Outcome State Fault Refusal :=
  wireOp (encodeCmd s.layout.opcRRxPayload 0 []) s.packetSize s

/-- W_TX_PAYLOAD (30_encoding.md R141). -/
def execWTxPayload (data : List Byte) (s : State) : Host.Outcome State Fault Refusal :=
  wireOp (encodeCmd s.layout.opcWTxPayload 0 data) 0 s

end Sys2Proof.Machine
end

