-- ==== Sys2Proof/Machine/Dispatch.lean ====
section
/-! DEFINITION. The dispatch of the instructions to their meanings, one arm per constructor of Instr. -/

namespace Sys2Proof.Machine

open Sys2Proof

def exec (i : Instr) (s : State) : Host.Outcome State Fault Refusal :=
  match i with
  | .init pipe args => Sys2Proof.Machine.execInit pipe args s
  | .setChannel pipe args => Sys2Proof.Machine.execSetChannel pipe args s
  | .getChannel pipe args => Sys2Proof.Machine.execGetChannel pipe args s
  | .setOutputPower pipe args => Sys2Proof.Machine.execSetOutputPower pipe args s
  | .getOutputPower pipe args => Sys2Proof.Machine.execGetOutputPower pipe args s
  | .setDataRate pipe args => Sys2Proof.Machine.execSetDataRate pipe args s
  | .getDataRate pipe args => Sys2Proof.Machine.execGetDataRate pipe args s
  | .setPowerMode pipe args => Sys2Proof.Machine.execSetPowerMode pipe args s
  | .getPowerMode pipe args => Sys2Proof.Machine.execGetPowerMode pipe args s
  | .getWorkingMode pipe args => Sys2Proof.Machine.execGetWorkingMode pipe args s
  | .send pipe args => Sys2Proof.Machine.execSend pipe args s
  | .registerConsumer pipe args => Sys2Proof.Machine.execRegisterConsumer pipe args s
  | .pipeGetAddress pipe args => Sys2Proof.Machine.execPipeGetAddress pipe args s
  | .pipeSetAddress pipe args => Sys2Proof.Machine.execPipeSetAddress pipe args s
  | .pipeGetAutoack pipe args => Sys2Proof.Machine.execPipeGetAutoack pipe args s
  | .pipeSetAutoack pipe args => Sys2Proof.Machine.execPipeSetAutoack pipe args s
  | .pipeGetPayloadSize pipe args => Sys2Proof.Machine.execPipeGetPayloadSize pipe args s
  | .pipeSetPayloadSize pipe args => Sys2Proof.Machine.execPipeSetPayloadSize pipe args s
  | .pipeGetEnabled pipe args => Sys2Proof.Machine.execPipeGetEnabled pipe args s
  | .pipeSetEnabled pipe args => Sys2Proof.Machine.execPipeSetEnabled pipe args s
  | .reservedOp00 pipe args => Sys2Proof.Machine.execReservedOp00 pipe args s
  | .reservedOp0D pipe args => Sys2Proof.Machine.execReservedOp0D pipe args s
  | .reservedOp0E pipe args => Sys2Proof.Machine.execReservedOp0E pipe args s
  | .reservedOp0F pipe args => Sys2Proof.Machine.execReservedOp0F pipe args s
  | .reservedOp18 pipe args => Sys2Proof.Machine.execReservedOp18 pipe args s
  | .reservedOp19 pipe args => Sys2Proof.Machine.execReservedOp19 pipe args s
  | .reservedOp1A pipe args => Sys2Proof.Machine.execReservedOp1A pipe args s
  | .reservedOp1B pipe args => Sys2Proof.Machine.execReservedOp1B pipe args s
  | .reservedOp1C pipe args => Sys2Proof.Machine.execReservedOp1C pipe args s
  | .reservedOp1D pipe args => Sys2Proof.Machine.execReservedOp1D pipe args s
  | .reservedOp1E pipe args => Sys2Proof.Machine.execReservedOp1E pipe args s
  | .reservedOp1F pipe args => Sys2Proof.Machine.execReservedOp1F pipe args s
  | .rRegister reg => Sys2Proof.Machine.execRRegister reg s
  | .wRegister reg data => Sys2Proof.Machine.execWRegister reg data s
  | .rRxPayload => Sys2Proof.Machine.execRRxPayload s
  | .wTxPayload data => Sys2Proof.Machine.execWTxPayload data s

end Sys2Proof.Machine
end

