-- ==== Sys2Proof/Machine/Environment.lean ====
section
/-! DEFINITION. What happens outside the block's operations: the edge detector's sampling
(60_exceptions.md R317 to R319) and the reference chip's own events (20_memory.md R113, R115). -/

namespace Sys2Proof.Machine

open Sys2Proof

/-- The edge detector samples the IRQ input (10_state.md R37): a low sample after a high one is a falling edge,
latched when the notification is armed and the latch is not full (60_exceptions.md R319). -/
def sampleIrq (level : Bool) (s : State) : State :=
  if s.irqLevel = true ∧ level = false ∧ s.edgeArmed = true then
    { s with irqLevel := level, irqPending := min (s.irqPending + 1) s.params.irqPendingDepth }
  else { s with irqLevel := level }

/-- The reference chip receives a packet for pipe `p` exactly under these conditions (R113). A packet of 0 bytes on an
enabled pipe whose RX_PW is 0 meets them: R113 names no condition that keeps it out, and 43_pipe.md R276 with 93 G27
says only of the nRF24L01 that such a pipe receives nothing (DESIGN CHOICE, log entry 19). With an RX_PW field above 32,
which the block never writes (R276), a packet of that length is received, into a FIFO whose payloads R80 gives 0..32 bytes
(DESIGN CHOICE, log entry 19). -/
def Chip.canReceive (c : Chip) (y : Layout) (ce : Bool) (p : BitVec 3) (data : List Byte) : Bool :=
  c.isUp y 1 && ce && decide (c.rxFifo.length < Config.fifoDepth) && decide (p.toNat < Config.nPipes) &&
    decide (decodeEnabled y (c.regByte (y.addr .enRxaddr)) p = 1) &&
    decide (data.length = (decodePayloadSize y (c.regByte (y.addr (.rxPw p)))).toNat)

/-- STATUS after a reception: RX_DR set, and the pipe named if the RX FIFO was empty (R113). -/
def Chip.statusOnReception (c : Chip) (y : Layout) (p : BitVec 3) : Byte :=
  statusSetRxReady y (if c.rxFifo.isEmpty then statusSetPipe (c.status y) p else c.status y)

/-- Reference reception (R113); a packet whose conditions do not hold changes nothing. -/
def receive (p : BitVec 3) (data : List Byte) (s : State) : State :=
  if s.chip.canReceive s.layout s.ce p data then
    s.setChip (({ s.chip with rxFifo := s.chip.rxFifo ++ [RxEntry.mk p data] }).withStatus s.layout
      (s.chip.statusOnReception s.layout p))
  else s

/-- `T_CE_HOLD` passes: a chip whose chip-enable is high under the conditions of R115 may then transmit what its TX
FIFO holds, before chip-enable falls or after (log entry 14). -/
def holdPasses (s : State) : State := s.setChip (s.chip.noteHold s.layout s.ce)

/-- Reference transmission (R115): the head of the TX FIFO leaves, if a hold has been seen with it queued, and TX_DS or
MAX_RT is set. -/
def transmit (sent : Bool) (s : State) : State :=
  match s.chip.held, s.chip.txFifo with
  | n + 1, _ :: rest =>
    s.setChip (({ s.chip with txFifo := rest, held := n }).withStatus s.layout
      (statusSetTxDone (s.chip.status s.layout) sent))
  | _, _ => s

end Sys2Proof.Machine
end

