-- ==== Sys2Proof/Machine/Sequencer.lean ====
section
/-! DEFINITION. The sequencers (10_state.md R41): what an agent's operation is made of, primitive by primitive,
and the move of one agent by one primitive, so that the operations of several agents can interleave wherever the
exclusion lets them (20_memory.md R97 to R101). -/

namespace Sys2Proof.Machine

open Sys2Proof

/-- The validation of an instruction, before `Acquire()` (60_exceptions.md R323); a wire command has none. -/
def checkOf (i : Instr) (s : State) : Option Status :=
  match i with
  | .init p a => checkInit p a s
  | .setChannel p a => checkSetChannel p a s
  | .getChannel p a => checkGetChannel p a s
  | .setOutputPower p a => checkSetOutputPower p a s
  | .getOutputPower p a => checkGetOutputPower p a s
  | .setDataRate p a => checkSetDataRate p a s
  | .getDataRate p a => checkGetDataRate p a s
  | .setPowerMode p a => checkSetPowerMode p a s
  | .getPowerMode p a => checkGetPowerMode p a s
  | .getWorkingMode p a => checkGetWorkingMode p a s
  | .send p a => checkSend p a s
  | .registerConsumer p a => checkRegisterConsumer p a s
  | .pipeGetAddress p a => checkPipeGetAddress p a s
  | .pipeSetAddress p a => checkPipeSetAddress p a s
  | .pipeGetAutoack p a => checkPipeGetAutoack p a s
  | .pipeSetAutoack p a => checkPipeSetAutoack p a s
  | .pipeGetPayloadSize p a => checkPipeGetPayloadSize p a s
  | .pipeSetPayloadSize p a => checkPipeSetPayloadSize p a s
  | .pipeGetEnabled p a => checkPipeGetEnabled p a s
  | .pipeSetEnabled p a => checkPipeSetEnabled p a s
  | .reservedOp00 _ _ | .reservedOp0D _ _ | .reservedOp0E _ _ | .reservedOp0F _ _ | .reservedOp18 _ _ | .reservedOp19 _ _
  | .reservedOp1A _ _ | .reservedOp1B _ _ | .reservedOp1C _ _ | .reservedOp1D _ _ | .reservedOp1E _ _ | .reservedOp1F _ _ => some .illegalOp
  | .rRegister _ | .wRegister _ _ | .rRxPayload | .wTxPayload _ => none

/-- The primitives of an instruction from `Acquire()` on (41_device_config.md R190); a reserved op code has none, and a
wire command is no operation of the block. -/
def instrProgram : Instr → List Prim
  | .init p a => shell (bodyInit p a) .nothing
  | .setChannel p a => shell (bodySetChannel p a) .nothing
  | .getChannel p a => shell (bodyGetChannel p a) (.field .channel)
  | .setOutputPower p a => shell (bodySetOutputPower p a) .nothing
  | .getOutputPower p a => shell (bodyGetOutputPower p a) (.field .outputPower)
  | .setDataRate p a => shell (bodySetDataRate p a) .nothing
  | .getDataRate p a => shell (bodyGetDataRate p a) (.field .dataRate)
  | .setPowerMode p a => shell (bodySetPowerMode p a) .nothing
  | .getPowerMode p a => shell (bodyGetPowerMode p a) (.field .powerMode)
  | .getWorkingMode p a => shell (bodyGetWorkingMode p a) (.field .workingMode)
  | .send p a => shell (bodySend p a) .nothing
  | .registerConsumer p a => shell (bodyRegisterConsumer p a) .nothing
  | .pipeGetAddress p a => shell (bodyPipeGetAddress p a) (.bytes)
  | .pipeSetAddress p a => shell (bodyPipeSetAddress p a) .nothing
  | .pipeGetAutoack p a => shell (bodyPipeGetAutoack p a) (.field (.autoAck p))
  | .pipeSetAutoack p a => shell (bodyPipeSetAutoack p a) .nothing
  | .pipeGetPayloadSize p a => shell (bodyPipeGetPayloadSize p a) (.field .payloadSize)
  | .pipeSetPayloadSize p a => shell (bodyPipeSetPayloadSize p a) .nothing
  | .pipeGetEnabled p a => shell (bodyPipeGetEnabled p a) (.field (.enabled p))
  | .pipeSetEnabled p a => shell (bodyPipeSetEnabled p a) .nothing
  | .reservedOp00 _ _ | .reservedOp0D _ _ | .reservedOp0E _ _ | .reservedOp0F _ _ | .reservedOp18 _ _ | .reservedOp19 _ _
  | .reservedOp1A _ _ | .reservedOp1B _ _ | .reservedOp1C _ _ | .reservedOp1D _ _ | .reservedOp1E _ _ | .reservedOp1F _ _ => []
  | .rRegister _ | .wRegister _ _ | .rRxPayload | .wTxPayload _ => []

/-- The primitives of an operation. -/
def programOf : Op → List Prim
  | .instr i => instrProgram i
  | .drain => handlerProgram

/-- A host agent presents a request frame (41_device_config.md R190): the frame is decoded and validated and its
sequencer set up, at `Acquire()` or at the return of the code that validation raised. -/
def issue (a : Nat) (frame : List Byte) (s : State) : State :=
  match decodeHost frame with
  | .error _ => s.respond a .illegalOp []
  | .ok i =>
    match checkOf i s with
    | some c => s.setSeq (.host a) (some ⟨.instr i, 0, Locals.start, .returning c⟩)
    | none => s.setSeq (.host a) (some ⟨.instr i, 0, Locals.start, .main⟩)

/-- A busy agent's next move (10_state.md R41): a primitive that completes advances the index by one, the last
one leaves the agent Idle; an abort releases the exclusion and then returns its code; a hung transaction has no
next move (60_exceptions.md R315); a consumer that returns completes the drain (42_transmit_receive.md R236). -/
def advanceBusy (ag : Agent) (b : Busy) (s : State) : State :=
  match b.course with
  | .hung => s
  | .delivering => s.setSeq ag none
  | .returning c => (returnCode ag b.op c s).setSeq ag none
  | .raised c =>
    if b.op.responds then (s.setLock .free).setSeq ag (some { b with course := .returning c })
    else (s.setLock .free).setSeq ag none
  | .main =>
    match (programOf b.op)[b.step]? with
    | none => s.setSeq ag none
    | some p =>
      match execPrim ag p b.locals s with
      | .done l s' =>
        if b.step + 1 < (programOf b.op).length then
          s'.setSeq ag (some ⟨b.op, b.step + 1, l, .main⟩)
        else s'.setSeq ag none
      | .raise c s' => s'.setSeq ag (some { b with course := .raised c })
      | .wait => s
      | .hung s' => s'.setSeq ag (some { b with course := .hung })
      | .handedOver l s' => s'.setSeq ag (some ⟨b.op, b.step, l, .delivering⟩)

/-- An agent moves by one primitive. An Idle host agent has nothing to do; the Idle IRQ agent enters its handler
when an edge is pending (60_exceptions.md R325). -/
def advance (ag : Agent) (s : State) : State :=
  match s.seqOf ag with
  | some b => advanceBusy ag b s
  | none =>
    match ag with
    | .host _ => s
    | .irq => if 0 < s.irqPending then advanceBusy .irq ⟨.drain, 0, Locals.start, .main⟩ s else s

end Sys2Proof.Machine
end

