-- ==== Sys2Proof/Machine/Port.lean ====
section
/-! DEFINITION. What a step does with the next choice of the outside world: a frame at the host request port or
on the wire is decoded and executed, an agent moves, or the environment acts. -/

namespace Sys2Proof.Machine

open Sys2Proof

/-- The host port takes a frame of agent `a`: it is one of the N_HOST_AGENTS of the block (00_scope.md R11), and has no
operation in flight (60_exceptions.md R334). -/
def State.takesFrom (s : State) (a : Nat) : Bool :=
  decide (a < s.params.nHostAgents) && (s.seqOf (.host a)).isNone

/-- A request frame at the host port runs to its end or to where it can go no further. A frame that is not taken leaves
the state as it is (log entry 22). Bytes that are no frame are answered with E_ILLEGAL_OP (30_encoding.md R124). -/
def runRequest (a : Nat) (frame : List Byte) (s : State) : Host.Outcome State Fault Refusal :=
  if s.takesFrom a then
    match decodeHost frame with
    | .ok i => exec i { s with requester := a }
    | .error _ => .next (s.respond a .illegalOp [])
  else .next s

/-- A request frame at the host port, decoded and validated only; the agent then moves by `advance`. -/
def runIssue (a : Nat) (frame : List Byte) (s : State) : State :=
  if s.takesFrom a then issue a frame s else s

/-- A command frame that reaches the chip from outside the block (log entry 13). -/
def runWire (frame : List Byte) (s : State) : Host.Outcome State Fault Refusal :=
  match decodeWire s.layout frame with
  | .ok i => exec i s
  | .error e => .fault (.notAWireCommand e)

/-- One choice of the outside world. -/
def runInput (i : Input) (s : State) : Host.Outcome State Fault Refusal :=
  match i with
  | .request a frame => runRequest a frame s
  | .issue a frame => .next (runIssue a frame s)
  | .advance ag => .next (advance ag s)
  | .handler => .next (takeInterrupt s)
  | .wire frame => runWire frame s
  | .sample level => .next (sampleIrq level s)
  | .sampleLine => .next (sampleIrq (s.chip.irqLine s.layout) s)
  | .reception p data => .next (receive p data s)
  | .holdPasses => .next (holdPasses s)
  | .transmission sent => .next (transmit sent s)
  | .chipChange c => .next (s.setChip c)

/-- The least number whose host agent is Idle. -/
def idleHost (m : List (Nat × Busy)) : Nat :=
  ((List.range (m.length + 1)).find? fun a => (lookupSeq m a).isNone).getD 0

/-- Enough host agents for number `a` to be one of them; no change where it is one. -/
def State.withAgent (s : State) (a : Nat) : State :=
  { s with params := { s.params with nHostAgents := max s.params.nHostAgents (a + 1) } }

/-- The input that presents an instruction's frame at its port. -/
def presentInstr (y : Layout) (a : Nat) (i : Instr) : Input :=
  if i.isHost then .request a (encode y i) else .wire (encode y i)

end Sys2Proof.Machine
end

