-- ==== Sys2Proof/Machine/Views.lean ====
section
/-! DEFINITION. The views of 10_state.md R58, R64 and R65: decoded from the chip's registers, no state of their
own; what the host observes (R45); and the pseudo-operations of 30_encoding.md R144. -/

namespace Sys2Proof.Machine

open Sys2Proof

/-- A pipe (R64). -/
structure PipeView where
  id : BitVec 3
  address : List Byte
  autoAck : Byte
  payloadSize : Byte
  enabled : Byte
deriving DecidableEq, Repr

/-- Pipe `p`, decoded from the chip at this moment (R64). -/
def Chip.pipe (c : Chip) (y : Layout) (p : BitVec 3) : PipeView :=
  { id := p
    address := c.readReg y (y.addr (.rxAddr p))
    autoAck := decodeAutoAck y (c.regByte (y.addr .enAa)) p
    payloadSize := decodePayloadSize y (c.regByte (y.addr (.rxPw p)))
    enabled := decodeEnabled y (c.regByte (y.addr .enRxaddr)) p }

/-- The address a pipe receives at: pipes 2 to 5 inherit bytes 1 to 4 from pipe 1 (R58). -/
def Chip.effectiveAddress (c : Chip) (y : Layout) (p : BitVec 3) : List Byte :=
  if p.toNat ≤ 1 then c.readReg y (y.addr (.rxAddr p))
  else c.readReg y (y.addr (.rxAddr p)) ++ (c.readReg y (y.addr (.rxAddr 1))).drop 1

/-- The device configuration (R65). -/
structure DeviceConfig where
  channel : Byte
  outputPower : Byte
  dataRate : Byte
  powerMode : Byte
  workingMode : Byte
deriving DecidableEq, Repr

/-- The device configuration, decoded from the chip at this moment (R65). -/
def Chip.deviceConfig (c : Chip) (y : Layout) : DeviceConfig :=
  { channel := decodeChannel y (c.regByte (y.addr .rfCh))
    outputPower := decodeOutputPower y (c.regByte (y.addr .rfSetup))
    dataRate := decodeDataRate y (c.regByte (y.addr .rfSetup))
    powerMode := decodePowerMode y (c.config y)
    workingMode := decodeWorkingMode y (c.config y) }

/-- The response frame an event emits to a host agent (30_encoding.md R122). -/
def Event.frameFor (a : Nat) : Event → Option (List Byte)
  | .resp n st d => if n = a then some (responseFrame st d) else none
  | .txn _ _ _ => none
  | .ce _ => none
  | .delay _ => none
  | .deliver _ => none
  | .drop _ => none

/-- The response frames a host agent has received, oldest first (R45). -/
def State.responses (s : State) (a : Nat) : List (List Byte) := s.trace.filterMap (Event.frameFor a)

/-- A wire event: a transaction or a chip-enable change (20_memory.md R97). -/
def Event.isWire : Event → Bool
  | .txn _ _ _ => true
  | .ce _ => true
  | .delay _ => false
  | .deliver _ => false
  | .drop _ => false
  | .resp _ _ _ => false

/-- The wire events of a trace, in order (R96). -/
def wireEvents (es : List Event) : List Event := es.filter Event.isWire

/-- CONFIGURE ch, power, rate (30_encoding.md R144). -/
def pseudoConfigure (ch power rate : Byte) : List Instr :=
  [.setChannel 0 [ch], .setOutputPower 0 [power], .setDataRate 0 [rate]]

/-- PIPE_WRITE_CONFIG Pn, addr, size, ack, en (R144). -/
def pseudoPipeWriteConfig (p : BitVec 3) (addr : List Byte) (size ack en : Byte) : List Instr :=
  [.pipeSetAddress p addr, .pipeSetPayloadSize p [size], .pipeSetAutoack p [ack], .pipeSetEnabled p [en]]

/-- PIPE_READ_CONFIG Pn (R144). -/
def pseudoPipeReadConfig (p : BitVec 3) : List Instr :=
  [.pipeGetAddress p [], .pipeGetPayloadSize p [], .pipeGetAutoack p [], .pipeGetEnabled p []]

/-- The host's requests for a list of operations, in order, each taking and releasing the exclusion by itself
(R144, 70_reset_and_hazards.md R373). -/
def requests (y : Layout) (a : Nat) (is : List Instr) : List Input := is.map (fun i => .request a (encode y i))

end Sys2Proof.Machine
end

