-- ==== Sys2Proof/Machine/Step.lean ====
section
/-! DEFINITION. The step: the next choice of the outside world is taken; with none, the block waits
(70_reset_and_hazards.md R361). -/

namespace Sys2Proof.Machine

open Sys2Proof

/-- One step. -/
def step (s : State) : Host.Outcome State Fault Refusal :=
  match s.agenda with
  | [] => .next s
  | i :: rest => runInput i { s with agenda := rest }

/-- The word's instruction presented at its port, a request by an Idle host agent, as the next thing that happens; where
every host agent of the block is busy, it has one more (log entry 8). -/
def State.withFetchWord (s : State) (nbits w : Nat) : State :=
  match decodeTableWord nbits w with
  | none => s
  | some i =>
    { (if i.isHost then s.withAgent (idleHost s.hostSeq) else s) with
      agenda := presentInstr s.layout (idleHost s.hostSeq) i :: s.agenda }

end Sys2Proof.Machine
end

