-- ==== Sys2Proof/Machine/Assembler.lean ====
section
/-! DEFINITION. The assembler of 30_encoding.md R143 and the pseudo-operations of R144: one operation a line, a
semicolon starting a comment. It checks spelling and that each number fits a byte; every range is checked by the
block. A machine's steps do not use it. -/

namespace Sys2Proof.Machine

open Sys2Proof

/-- The words and marks of a line. -/
inductive Token where
  | word (w : List Char)
  | comma
  | leftBracket
  | rightBracket
deriving DecidableEq, Repr

/-- An operand: a word, or a bracketed list of words. -/
inductive Operand where
  | word (w : List Char)
  | list (ws : List (List Char))
deriving DecidableEq, Repr

/-- The word read so far, ended. -/
def endWord (acc : List Char) (ts : List Token) : List Token :=
  match acc with
  | [] => ts
  | c :: cs => .word (c :: cs).reverse :: ts

/-- The tokens of a line; `acc` is the word read so far, last character first. A semicolon ends the line. -/
def tokens (acc : List Char) : List Char → List Token
  | [] => endWord acc []
  | c :: cs =>
    if c = ';' then endWord acc []
    else if c = ',' then endWord acc (.comma :: tokens [] cs)
    else if c = '[' then endWord acc (.leftBracket :: tokens [] cs)
    else if c = ']' then endWord acc (.rightBracket :: tokens [] cs)
    else if c = ' ' ∨ c = '\t' ∨ c = '\r' then endWord acc (tokens [] cs)
    else tokens (c :: acc) cs

/-- What the operand reader expects next. -/
inductive Expects where
  /-- An operand, or nothing at all when the line has none. -/
  | first
  /-- An operand after a comma. -/
  | operand
  /-- A comma or the end. -/
  | separator
  /-- An element or the closing bracket, right after the opening one. -/
  | firstElement (ws : List (List Char))
  /-- An element after a comma. -/
  | element (ws : List (List Char))
  /-- A comma or the closing bracket. -/
  | elementEnd (ws : List (List Char))
deriving DecidableEq, Repr

/-- The operands after a mnemonic, none if they are spelled wrongly. -/
def operands : Expects → List Token → Option (List Operand)
  | .first, [] => some []
  | .separator, [] => some []
  | .operand, [] => none
  | .firstElement _, [] => none
  | .element _, [] => none
  | .elementEnd _, [] => none
  | .first, .word w :: ts => (operands .separator ts).map (.word w :: ·)
  | .operand, .word w :: ts => (operands .separator ts).map (.word w :: ·)
  | .first, .leftBracket :: ts => operands (.firstElement []) ts
  | .operand, .leftBracket :: ts => operands (.firstElement []) ts
  | .separator, .comma :: ts => operands .operand ts
  | .firstElement ws, .word w :: ts => operands (.elementEnd (ws ++ [w])) ts
  | .element ws, .word w :: ts => operands (.elementEnd (ws ++ [w])) ts
  | .elementEnd ws, .comma :: ts => operands (.element ws) ts
  | .elementEnd ws, .rightBracket :: ts => (operands .separator ts).map (.list ws :: ·)
  | .firstElement ws, .rightBracket :: ts => (operands .separator ts).map (.list ws :: ·)
  | _, _ :: _ => none

/-- The value of a digit in a base of at most sixteen. -/
def digit (base : Nat) (c : Char) : Option Nat :=
  let v :=
    if '0' ≤ c ∧ c ≤ '9' then c.toNat - '0'.toNat
    else if 'a' ≤ c ∧ c ≤ 'f' then c.toNat - 'a'.toNat + 10
    else if 'A' ≤ c ∧ c ≤ 'F' then c.toNat - 'A'.toNat + 10
    else base
  if v < base then some v else none

/-- The number digits spell, none if one is no digit. -/
def digits (base : Nat) : Nat → List Char → Option Nat
  | n, [] => some n
  | n, c :: cs => (digit base c).bind fun d => digits base (base * n + d) cs

/-- A decimal or `0x` hexadecimal byte. -/
def byteOf (w : List Char) : Option Byte :=
  let n :=
    match w with
    | [] => none
    | '0' :: 'x' :: c :: cs => digits 16 0 (c :: cs)
    | c :: cs => digits 10 0 (c :: cs)
  n.bind fun n => if n < 256 then some (BitVec.ofNat 8 n) else none

/-- The bytes of a bracketed list; its length must fit the frame's length byte. -/
def bytesOf (ws : List (List Char)) : Option (List Byte) :=
  if ws.length ≤ 255 then ws.mapM byteOf else none

/-- A name, or a byte (95_test_vectors.md writes codes outside the names as numbers; log entry 15). -/
def named (names : List (List Char × Byte)) (w : List Char) : Option Byte :=
  match names.lookup w with
  | some v => some v
  | none => byteOf w

/-- `<power>`: codes 0..3. -/
def powerOf : List Char → Option Byte :=
  named [("-18DBM".toList, 0), ("-12DBM".toList, 1), ("-6DBM".toList, 2), ("0DBM".toList, 3)]

/-- `<rate>`: codes 0, 1. -/
def rateOf : List Char → Option Byte := named [("1MBPS".toList, 0), ("2MBPS".toList, 1)]

/-- `UP` is 1 and `DOWN` 0. -/
def powerModeOf : List Char → Option Byte := named [("UP".toList, 1), ("DOWN".toList, 0)]

/-- `P<n>`: the pipe field n, 0..7. -/
def pipeOf : List Char → Option (BitVec 3)
  | ['P', c] => (digit 8 c).map (BitVec.ofNat 3)
  | _ => none

/-- The instructions of a mnemonic and its operands (R143, R144), none if no such line exists. So a device operation
takes no pipe operand: `GET_CHANNEL P1`, which 95_test_vectors.md writes in P5 beside the bytes 0x19, 0x00, gives none
here, since R143's syntax gives GET_CHANNEL no operand (DESIGN CHOICE, log entry 15); the bytes decode as R124 says. -/
def assembleOp (m : List Char) (args : List Operand) : Option (List Instr) :=
  match args with
  | [] =>
    if m = "GET_CHANNEL".toList then some [.getChannel 0 []]
    else if m = "GET_OUTPUT_POWER".toList then some [.getOutputPower 0 []]
    else if m = "GET_DATA_RATE".toList then some [.getDataRate 0 []]
    else if m = "GET_POWER_MODE".toList then some [.getPowerMode 0 []]
    else if m = "GET_WORKING_MODE".toList then some [.getWorkingMode 0 []]
    else if m = "REGISTER_CONSUMER".toList then some [.registerConsumer 0 []]
    else none
  | [.word a] =>
    if m = "SET_CHANNEL".toList then (byteOf a).map fun v => [.setChannel 0 [v]]
    else if m = "SET_OUTPUT_POWER".toList then (powerOf a).map fun v => [.setOutputPower 0 [v]]
    else if m = "SET_DATA_RATE".toList then (rateOf a).map fun v => [.setDataRate 0 [v]]
    else if m = "SET_POWER_MODE".toList then (powerModeOf a).map fun v => [.setPowerMode 0 [v]]
    else if m = "PIPE_GET_ADDRESS".toList then (pipeOf a).map fun p => [.pipeGetAddress p []]
    else if m = "PIPE_GET_AUTOACK".toList then (pipeOf a).map fun p => [.pipeGetAutoack p []]
    else if m = "PIPE_GET_PAYLOAD_SIZE".toList then (pipeOf a).map fun p => [.pipeGetPayloadSize p []]
    else if m = "PIPE_GET_ENABLED".toList then (pipeOf a).map fun p => [.pipeGetEnabled p []]
    else if m = "PIPE_READ_CONFIG".toList then (pipeOf a).map pseudoPipeReadConfig
    else none
  | [.list ws] => if m = "SEND".toList then (bytesOf ws).map fun d => [.send 0 d] else none
  | [.word a, .word b] =>
    (pipeOf a).bind fun p => (byteOf b).bind fun v =>
      if m = "PIPE_SET_AUTOACK".toList then some [.pipeSetAutoack p [v]]
      else if m = "PIPE_SET_PAYLOAD_SIZE".toList then some [.pipeSetPayloadSize p [v]]
      else if m = "PIPE_SET_ENABLED".toList then some [.pipeSetEnabled p [v]]
      else none
  | [.word a, .list ws] =>
    (pipeOf a).bind fun p => (bytesOf ws).bind fun d =>
      if m = "PIPE_SET_ADDRESS".toList then some [.pipeSetAddress p d] else none
  | [.word a, .word b, .word c] =>
    (byteOf a).bind fun ch => (powerOf b).bind fun pw => (rateOf c).bind fun r =>
      if m = "CONFIGURE".toList then some (pseudoConfigure ch pw r) else none
  | [.word a, .word b, .word c, .word d] =>
    (byteOf a).bind fun n => (byteOf b).bind fun ch => (powerOf c).bind fun pw => (rateOf d).bind fun r =>
      if m = "INIT".toList then some [.init 0 [n, ch, pw, r]] else none
  | [.word a, .list ws, .word n, .word f, .word g] =>
    (pipeOf a).bind fun p => (bytesOf ws).bind fun d => (byteOf n).bind fun size =>
      (byteOf f).bind fun ack => (byteOf g).bind fun en =>
        if m = "PIPE_WRITE_CONFIG".toList then some (pseudoPipeWriteConfig p d size ack en) else none
  | _ => none

/-- The instructions of one line: none for an empty one, several for a pseudo-operation. -/
def assembleLine (line : List Char) : Option (List Instr) :=
  match tokens [] line with
  | [] => some []
  | .word m :: ts => (operands .first ts).bind (assembleOp m)
  | _ :: _ => none

/-- The lines of a text; `acc` is the line read so far, last character first. -/
def splitLines (acc : List Char) : List Char → List (List Char)
  | [] => [acc.reverse]
  | c :: cs => if c = '\n' then acc.reverse :: splitLines [] cs else splitLines (c :: acc) cs

/-- The instructions of a text, in order; none if a line is spelled wrongly. -/
def assemble (text : List Char) : Option (List Instr) :=
  ((splitLines [] text).mapM assembleLine).map List.flatten

end Sys2Proof.Machine
end

