-- ==== Sys2Proof/Safety.lean ====
section
/-! DEFINITION. What claims mean by a good state: the conditions under which an operation runs at once, and the
invariants of the machine (each a condition that every step keeps). -/

namespace Sys2Proof

/-- The twenty host operations: a host instruction that is no reserved op code (30_encoding.md R125, R129). -/
def Instr.isOperation : Instr → Bool
  | .init _ _ | .setChannel _ _ | .getChannel _ _ | .setOutputPower _ _ | .getOutputPower _ _
  | .setDataRate _ _ | .getDataRate _ _ | .setPowerMode _ _ | .getPowerMode _ _ | .getWorkingMode _ _
  | .send _ _ | .registerConsumer _ _
  | .pipeGetAddress _ _ | .pipeSetAddress _ _ | .pipeGetAutoack _ _ | .pipeSetAutoack _ _
  | .pipeGetPayloadSize _ _ | .pipeSetPayloadSize _ _ | .pipeGetEnabled _ _ | .pipeSetEnabled _ _ => true
  | .reservedOp00 _ _ | .reservedOp0D _ _ | .reservedOp0E _ _ | .reservedOp0F _ _
  | .reservedOp18 _ _ | .reservedOp19 _ _ | .reservedOp1A _ _ | .reservedOp1B _ _
  | .reservedOp1C _ _ | .reservedOp1D _ _ | .reservedOp1E _ _ | .reservedOp1F _ _ => false
  | .rRegister _ | .wRegister _ _ | .rRxPayload | .wTxPayload _ => false

/-- INIT and REGISTER_CONSUMER, the operations accepted before INIT has run (70_reset_and_hazards.md R364). -/
def Instr.isAcceptedBeforeInit : Instr → Bool
  | .init _ _ | .registerConsumer _ _ => true
  | .setChannel _ _ | .getChannel _ _ | .setOutputPower _ _ | .getOutputPower _ _
  | .setDataRate _ _ | .getDataRate _ _ | .setPowerMode _ _ | .getPowerMode _ _ | .getWorkingMode _ _
  | .send _ _
  | .pipeGetAddress _ _ | .pipeSetAddress _ _ | .pipeGetAutoack _ _ | .pipeSetAutoack _ _
  | .pipeGetPayloadSize _ _ | .pipeSetPayloadSize _ _ | .pipeGetEnabled _ _ | .pipeSetEnabled _ _
  | .reservedOp00 _ _ | .reservedOp0D _ _ | .reservedOp0E _ _ | .reservedOp0F _ _
  | .reservedOp18 _ _ | .reservedOp19 _ _ | .reservedOp1A _ _ | .reservedOp1B _ _
  | .reservedOp1C _ _ | .reservedOp1D _ _ | .reservedOp1E _ _ | .reservedOp1F _ _
  | .rRegister _ | .wRegister _ _ | .rRxPayload | .wTxPayload _ => false

/-- The pipe field of a pipe operation (43_pipe.md R270); none for any other instruction. -/
def Instr.pipeOperand : Instr → Option (BitVec 3)
  | .pipeGetAddress p _ | .pipeSetAddress p _ | .pipeGetAutoack p _ | .pipeSetAutoack p _
  | .pipeGetPayloadSize p _ | .pipeSetPayloadSize p _ | .pipeGetEnabled p _ | .pipeSetEnabled p _ => some p
  | .init _ _ | .setChannel _ _ | .getChannel _ _ | .setOutputPower _ _ | .getOutputPower _ _
  | .setDataRate _ _ | .getDataRate _ _ | .setPowerMode _ _ | .getPowerMode _ _ | .getWorkingMode _ _
  | .send _ _ | .registerConsumer _ _
  | .reservedOp00 _ _ | .reservedOp0D _ _ | .reservedOp0E _ _ | .reservedOp0F _ _
  | .reservedOp18 _ _ | .reservedOp19 _ _ | .reservedOp1A _ _ | .reservedOp1B _ _
  | .reservedOp1C _ _ | .reservedOp1D _ _ | .reservedOp1E _ _ | .reservedOp1F _ _
  | .rRegister _ | .wRegister _ _ | .rRxPayload | .wTxPayload _ => none

namespace Machine

/-- The exclusion is free and no bus error has occurred: an operation that passes validation runs at once. -/
def State.ready (s : State) : Prop := s.lock = .free ∧ s.faulted = false

/-- The block is configured (10_state.md R31). -/
def State.configured (s : State) : Prop := s.ready ∧ s.fsm ≠ .uninitialized

/-- The reference chip answers every coming transaction (20_memory.md R107), and the layout is one a chip can have. -/
def State.onReference (s : State) : Prop := s.answers = [] ∧ s.layout.wf = true

/-- The chip's registers are in the canonical form, its FIFOs within their depth (R107), and no more payloads were
held than are queued (R115). -/
def Chip.wf (c : Chip) : Bool :=
  Memory.wf c.regs && decide (c.rxFifo.length ≤ Config.fifoDepth) &&
    decide (c.txFifo.length ≤ Config.fifoDepth) && decide (c.held ≤ c.txFifo.length)

/-- An answer that names a chip names a good one. -/
def Answer.wf : Answer → Bool
  | .reference => true
  | .other _ c => c.wf
  | .fail => true
  | .hang => true

/-- An input that names a chip names a good one. -/
def Input.wf : Input → Bool
  | .chipChange c => c.wf
  | .request _ _ => true
  | .issue _ _ => true
  | .advance _ => true
  | .handler => true
  | .wire _ => true
  | .sample _ => true
  | .sampleLine => true
  | .reception _ _ => true
  | .holdPasses => true
  | .transmission _ => true

/-- The chip is good, and so is every chip the environment may still choose. -/
def State.chipOk (s : State) : Prop :=
  s.chip.wf = true ∧ (∀ a ∈ s.answers, a.wf = true) ∧ ∀ i ∈ s.agenda, i.wf = true

/-- The interrupt latch does not exceed its depth (10_state.md R36). -/
def State.latchOk (s : State) : Prop := s.irqPending ≤ s.params.irqPendingDepth

/-- Every busy host agent is one of the block's N_HOST_AGENTS (00_scope.md R11, 60_exceptions.md R334). -/
def State.agentsOk (s : State) : Prop := ∀ n b, s.seqOf (.host n) = some b → n < s.params.nHostAgents

/-- The primitives a busy agent has completed. -/
def Busy.past (b : Busy) : List Prim := (programOf b.op).take b.step

/-- Where an agent is in its operation says that it holds the exclusion: after `Acquire()` and before
`Release()` (20_memory.md R97). -/
def Busy.holds (b : Busy) : Bool :=
  match b.course with
  | .main => decide (Prim.acquire ∈ b.past) && !decide (Prim.release ∈ b.past)
  | .raised _ => true
  | .returning _ => false
  | .hung => true
  | .delivering => false

/-- Mutual exclusion: an agent is recorded as holder exactly when it is inside its exclusive part (R35, R97). -/
def State.exclusive (s : State) : Prop :=
  ∀ ag, s.lock = .held ag ↔ ∃ b, s.seqOf ag = some b ∧ b.holds = true

/-- An agent is between a SEND's switch to Transmit and its switch back (42_transmit_receive.md R230). -/
def Busy.transmitting (b : Busy) : Bool :=
  (match b.course with
    | .main => true
    | .hung => true
    | .raised _ => false
    | .returning _ => false
    | .delivering => false) &&
  decide (Prim.setFsm .configuredTx ∈ b.past) && !decide (Prim.setFsm .configuredRx ∈ b.past)

/-- ConfiguredTx is seen only inside a SEND that holds the exclusion, or in a faulted block (R230). -/
def State.transmitOk (s : State) : Prop :=
  s.fsm = .configuredTx → s.faulted = true ∨ ∃ ag b, s.seqOf ag = some b ∧ b.transmitting = true

/-- The packet size is 0..32, and so is the one an INIT that passed validation is about to write
(10_state.md R33). -/
def State.packetSizeOk (s : State) : Prop :=
  s.packetSize ≤ Config.payloadMax ∧
    ∀ ag b p a, s.seqOf ag = some b → b.op = .instr (.init p a) → b.course = .main →
      argNat a 0 ≤ Config.payloadMax

/-- What validation established of the operands of an operation in progress, as far as the frames it emits depend on
them (60_exceptions.md R323 steps 4 and 5). -/
def Op.validated : Op → Bool
  | .drain => true
  | .instr (.send _ a) => decide (1 ≤ a.length) && decide (a.length ≤ Config.payloadMax)
  | .instr (.pipeSetAddress p a) =>
    decide (p.toNat < Config.nPipes) && decide (1 ≤ a.length) && decide (a.length ≤ addrWidth p)
  | .instr i =>
    match i.pipeOperand with
    | some p => decide (p.toNat < Config.nPipes)
    | none => true

/-- An agent about to write an address register has read all of it, and the IRQ agent past its payload read holds
packetSize bytes (40_codec.md R173, 42_transmit_receive.md R235). -/
def Busy.hasRead (b : Busy) (packetSize : Nat) : Prop :=
  (∀ reg w a, (programOf b.op)[b.step]? = some (.writeAddr reg w a) → b.locals.bytes.length = w) ∧
    (Prim.readRx ∈ b.past → b.locals.bytes.length = packetSize)

/-- What holds of every operation in progress on its course: its operands passed validation, it has read what it
writes back or delivers, a drain past its mode check is of a configured block, and an INIT about to write packetSize
is of an uninitialised one. -/
def State.sequencersOk (s : State) : Prop :=
  ∀ ag b, s.seqOf ag = some b → b.course = .main →
    b.op.validated = true ∧ b.hasRead s.packetSize ∧
    (Prim.checkReceive ∈ b.past → s.fsm ≠ .uninitialized) ∧
    (∀ n, (programOf b.op)[b.step]? = some (.setPacketSize n) → s.fsm = .uninitialized)

/-- The safe runs: no number of steps ends in a fault or a refusal. -/
def State.safe (s : State) : Prop := ∀ k, ∃ t, Sys2Proof.core.run k s = Host.Outcome.next t

end Machine

end Sys2Proof
end

