-- ==== Sys2Proof/Certificates/Slice0/Obligations.lean ====
section
/-! DEFINITION. The statements for the provers. The helper definitions of `Sys2Proof.Claims` only shorten what a
statement says; each is spelled out from the spec's own bytes. -/

namespace Sys2Proof.Claims

open Sys2Proof Sys2Proof.Machine

/-- The event of a full read of a register (30_encoding.md R138). -/
def readEvent (y : Layout) (reg : BitVec 5) (rx : List Byte) : Event :=
  .txn [y.opcRRegister + reg.setWidth 8] rx.length rx

/-- The event of a register write (30_encoding.md R139). -/
def writeEvent (y : Layout) (reg : BitVec 5) (v : List Byte) : Event :=
  .txn ((y.opcWRegister + reg.setWidth 8) :: v) 0 []

/-- The mask of a single bit (40_codec.md R161). -/
def bitMask (b : BitVec 3) : Byte := 0x01 <<< b.toNat

/-- The enabled bit of a pipe (R161). -/
def enabledBit (y : Layout) (p : BitVec 3) : BitVec 3 := y.enabledBits.getD p.toNat p

/-- `insert(old, mask, shift, val)` (40_codec.md R170). -/
def insertBits (old mask : Byte) (shift : Nat) (val : Byte) : Byte :=
  (old &&& ~~~mask) ||| ((val <<< shift) &&& mask)

/-- The state in which an operation of the requesting agent makes its first transaction. -/
def locked (s : State) : State := s.setLock (.held (.host s.requester))

/-- What a host operation answers after its last transaction: the exclusion freed, then the response
(20_memory.md R101). -/
def answered (s : State) (st : Status) (data : List Byte) : Host.Outcome State Fault Refusal :=
  .next ((s.setLock .free).respond s.requester st data)

/-- What it answers at a bus error (60_exceptions.md R313). -/
def busError (s : State) : Host.Outcome State Fault Refusal := answered { s with faulted := true } .bus []

/-- What it leaves when its transaction at index `k` never completes (R315): the exclusion held, its sequencer
at that transaction. -/
def stuck (i : Instr) (k : Nat) (rx : List Byte) (s : State) : Host.Outcome State Fault Refusal :=
  .next (s.setSeq (.host s.requester) (some ⟨.instr i, k, ⟨rx, false⟩, .hung⟩))

/-- In every environment, the operation is one read of the register (n bytes), and answers `data` of them. -/
def GetsInEveryEnvironment (i : Instr) (reg : BitVec 5) (n : Nat) (data : List Byte → List Byte) (s : State) :
    Prop :=
  exec i s =
    match txn [s.layout.opcRRegister + reg.setWidth 8] n (locked s) with
    | .completed rx t => answered t .ok (data rx)
    | .failed t => busError t
    | .hung t => stuck i 2 [] t

/-- In every environment, the operation is one read of the register (n bytes) and one write of `new` of the bytes
read. -/
def SetsInEveryEnvironment (i : Instr) (reg : BitVec 5) (n : Nat) (new : List Byte → List Byte) (s : State) :
    Prop :=
  exec i s =
    match txn [s.layout.opcRRegister + reg.setWidth 8] n (locked s) with
    | .failed t => busError t
    | .hung t => stuck i 2 [] t
    | .completed rx t =>
      match txn ((s.layout.opcWRegister + reg.setWidth 8) :: new rx) 0 t with
      | .completed _ u => answered u .ok []
      | .failed u => busError u
      | .hung u => stuck i 3 rx u

/-- The state after a GET the reference chip answers: the read and the response are all. -/
def afterGet (s : State) (reg : BitVec 5) (data : List Byte) : State :=
  { s with trace := s.trace ++
      [readEvent s.layout reg (s.chip.readReg s.layout reg), .resp s.requester .ok data] }

/-- The state after a SET the reference chip takes: the read, the write and the response, and the register. -/
def afterSet (s : State) (reg : BitVec 5) (new : List Byte) : State :=
  { s with
    chip := s.chip.writeReg s.layout reg new
    trace := s.trace ++
      [readEvent s.layout reg (s.chip.readReg s.layout reg), writeEvent s.layout reg new,
        .resp s.requester .ok []] }

/-- A GET of a field of a 1-byte register: in every environment, and with the reference chip. -/
def GetsField (i : Instr) (reg : BitVec 5) (mask : Byte) (shift : Nat) (s : State) : Prop :=
  s.configured →
    GetsInEveryEnvironment i reg 1 (fun rx => [(rx.headD 0 &&& mask) >>> shift]) s ∧
    (s.onReference → exec i s = .next (afterGet s reg [(s.chip.regByte reg &&& mask) >>> shift]))

/-- A SET of a field of a 1-byte register: in every environment, and with the reference chip. -/
def SetsField (i : Instr) (reg : BitVec 5) (mask : Byte) (shift : Nat) (val : Byte) (s : State) : Prop :=
  s.configured →
    SetsInEveryEnvironment i reg 1 (fun rx => [insertBits (rx.headD 0) mask shift val]) s ∧
    (s.onReference → exec i s = .next (afterSet s reg [insertBits (s.chip.regByte reg) mask shift val]))

/-- The only effect is a response with this status (60_exceptions.md R312). -/
def OnlyAnswers (i : Instr) (s : State) (c : Status) : Prop :=
  exec i s = .next { s with trace := s.trace ++ [.resp s.requester c []] }

/-- The value checks of R323 step 5, in argument order. -/
def valueError (i : Instr) (s : State) : Option Status :=
  match i with
  | .init _ a =>
    if (a.getD 0 0).toNat > 32 then some .payloadSizeRange
    else if (a.getD 1 0).toNat > 127 then some .channelRange
    else if (a.getD 2 0).toNat > 3 then some .enumValue
    else if (a.getD 3 0).toNat > 1 then some .enumValue
    else none
  | .setChannel _ a => if (a.getD 0 0).toNat > 127 then some .channelRange else none
  | .setOutputPower _ a => if (a.getD 0 0).toNat > 3 then some .enumValue else none
  | .setDataRate _ a => if (a.getD 0 0).toNat > 1 then some .enumValue else none
  | .setPowerMode _ a => if (a.getD 0 0).toNat > 1 then some .enumValue else none
  | .send _ a => if a.length = 0 ∨ a.length > s.packetSize then some .sendLength else none
  | .pipeSetAddress p a =>
    if p.toNat ≤ 1 then (if 1 ≤ a.length ∧ a.length ≤ 5 then none else some .addressLength)
    else (if a.length = 1 then none else some .addressLength)
  | .pipeSetPayloadSize _ a => if (a.getD 0 0).toNat > 32 then some .payloadSizeRange else none
  | .pipeSetAutoack _ a => if (a.getD 0 0).toNat > 1 then some .enumValue else none
  | .pipeSetEnabled _ a => if (a.getD 0 0).toNat > 1 then some .enumValue else none
  | _ => none

/-- INIT. -/
def isInit : Instr → Bool
  | .init _ _ => true
  | _ => false

/-- A pipe operation on pipe 6 or 7. -/
def onNoPipe (i : Instr) : Bool :=
  match i.pipeOperand with
  | some p => decide (p.toNat > 5)
  | none => false

/-- The error R323 reports first for a decoded frame, none if it has no error. -/
def expectedError (i : Instr) (s : State) : Option Status :=
  if i.isOperation = false ∨ i.wellFormed s.layout = false then some .illegalOp
  else if s.faulted = true then some .faulted
  else if isInit i = true ∧ s.fsm ≠ .uninitialized then some .alreadyInitialized
  else if i.isAcceptedBeforeInit = false ∧ s.fsm = .uninitialized then some .notInitialized
  else if onNoPipe i = true then some .pipeRange
  else valueError i s

/-- What validation raises is the operation's whole effect (R323, R312). -/
def RefusesErrors (i : Instr) (s : State) : Prop := ∀ c, expectedError i s = some c → OnlyAnswers i s c

/-- The state after INIT with the reference chip (41_device_config.md R192): five read-modify-writes, the settle
delay, chip-enable, and the four block fields. -/
def afterInit (s : State) (n ch pw r : Byte) : State :=
  let y := s.layout
  let p := insertBits (s.chip.regByte y.regRfSetup) 0x06 1 pw
  let q := insertBits p (bitMask y.dataRateBit) y.dataRateBit.toNat r
  let c := insertBits (s.chip.regByte y.regRfCh) y.channelField.mask y.channelField.shift ch
  let d := insertBits (s.chip.regByte y.regConfig) (bitMask y.workingModeBit) y.workingModeBit.toNat 1
  let e := insertBits d 0x02 1 1
  { s with
    fsm := .configuredRx
    packetSize := n.toNat
    ce := true
    edgeArmed := true
    chip := ((((s.chip.writeReg y y.regRfSetup [p]).writeReg y y.regRfSetup [q]).writeReg y y.regRfCh [c]).writeReg y
      y.regConfig [d]).writeReg y y.regConfig [e]
    trace := s.trace ++
      [readEvent y y.regRfSetup [s.chip.regByte y.regRfSetup], writeEvent y y.regRfSetup [p],
        readEvent y y.regRfSetup [p], writeEvent y y.regRfSetup [q],
        readEvent y y.regRfCh [s.chip.regByte y.regRfCh], writeEvent y y.regRfCh [c],
        readEvent y y.regConfig [s.chip.regByte y.regConfig], writeEvent y y.regConfig [d],
        readEvent y y.regConfig [d], writeEvent y y.regConfig [e],
        .delay .initSettle, .ce true, .resp s.requester .ok []] }

/-- The state after SEND with the reference chip (42_transmit_receive.md R231), `fifo` the TX FIFO after the
payload was pushed, `taken` how many free values that took and `held` how many payloads earlier holds had seen, the
model's own (log entry 14). -/
def afterSend (s : State) (payload : List Byte) (fifo : List (List Byte)) (held taken : Nat) : State :=
  let y := s.layout
  let d := insertBits (s.chip.regByte y.regConfig) (bitMask y.workingModeBit) y.workingModeBit.toNat 0
  let e := insertBits d (bitMask y.workingModeBit) y.workingModeBit.toNat 1
  { s with
    fsm := .configuredRx
    ce := s.params.ceAfterSendHigh
    free := s.free + taken
    chip := ({ s.chip.writeReg y y.regConfig [d] with
      txFifo := fifo
      held := if d.getLsbD 1 then fifo.length else held }).writeReg y y.regConfig [e]
    trace := s.trace ++
      [readEvent y y.regConfig [s.chip.regByte y.regConfig], writeEvent y y.regConfig [d], .ce false,
        .txn (y.opcWTxPayload :: payload) 0 [], .ce true, .delay .ceHold, .ce false,
        readEvent y y.regConfig [d], writeEvent y y.regConfig [e]] ++
      (if s.params.ceAfterSendHigh then [.ce true] else []) ++ [.resp s.requester .ok []] }

/-- `STATUS[3:1] <- p`, the other bits unchanged (20_memory.md R111, R113). -/
def withPipeNumber (status : Byte) (p : BitVec 3) : Byte := (status &&& 0xF1) ||| (p.setWidth 8 <<< 1)

/-- The chip with STATUS naming a pipe (R111). -/
def namingPipe (c : Chip) (y : Layout) (p : BitVec 3) : Chip :=
  { c with regs := c.regs.write (8 * y.regStatus.toNat) (withPipeNumber (c.status y) p) }

/-- The chip after a read of its RX FIFO (R111). -/
def afterPop (c : Chip) (y : Layout) : Chip :=
  match c.rxFifo with
  | [] => namingPipe c y 7
  | [_] => { namingPipe c y 7 with rxFifo := [] }
  | _ :: e :: rest => { namingPipe c y e.pipe with rxFifo := e :: rest }

/-- The bytes the reference chip has for a read of its RX FIFO: those of the head entry (R111). -/
def headData (c : Chip) : List Byte :=
  match c.rxFifo with
  | [] => []
  | e :: _ => e.data

/-- A wire command in every environment: its frame reaches the chip, and of the block nothing changes; the chip, the
environment's answers, the count of free values and the bytes returned last are all that may (log entry 13). -/
def OneFrame (i : Instr) (tx : List Byte) (n : Nat) (s : State) : Prop :=
  exec i s =
    (match busOutcome tx n s with
    | .completed rx t => .next { t with wireRx := rx }
    | .failed t => .next t
    | .hung t => .next t) ∧
  ∀ t, exec i s = .next t →
    t = { s with chip := t.chip, answers := t.answers, free := t.free, wireRx := t.wireRx }

/-- A bus transaction is the event of no operation but these: it is a wire event made under the exclusion. -/
def hasWireEvent (es : List Event) : Prop := ∃ e ∈ es, e.isWire = true

/-- Several SENDs in a row by the requesting agent. -/
def sends : List (List Byte) → State → Host.Outcome State Fault Refusal
  | [], s => .next s
  | p :: ps, s =>
    match exec (.send 0 p) s with
    | .next t => sends ps t
    | .fault r => .fault r
    | .refused r => .refused r

/-- Two bytes agree on every bit but possibly bit `b`. -/
def onlyBit (b : Nat) (x y : Byte) : Prop := ∀ j, j ≠ b → x.getLsbD j = y.getLsbD j

/-- `k` moves of one agent. -/
def moves (ag : Agent) : Nat → State → State
  | 0, s => s
  | k + 1, s => moves ag k (advance ag s)

/-- A read of a register of R50 at its width (30_encoding.md R138); the address does not carry into the command bits
(R134). -/
def isReadFrame (y : Layout) (tx : List Byte) (n : Nat) : Prop :=
  ∃ reg : BitVec 5, WellFormed.widthOf y reg ≠ 0 ∧ n = WellFormed.widthOf y reg ∧
    tx = [y.opcRRegister + reg.setWidth 8] ∧ (y.opcRRegister + reg.setWidth 8) &&& 0xE0 = y.opcRRegister

/-- A write of a register of R50 at its width (R139), again without a carry (R134). -/
def isWriteFrame (y : Layout) (tx : List Byte) (n : Nat) : Prop :=
  ∃ (reg : BitVec 5) (v : List Byte), WellFormed.widthOf y reg ≠ 0 ∧ v.length = WellFormed.widthOf y reg ∧ n = 0 ∧
    tx = (y.opcWRegister + reg.setWidth 8) :: v ∧ (y.opcWRegister + reg.setWidth 8) &&& 0xE0 = y.opcWRegister

/-- The read of the RX payload (R140). -/
def isRxFrame (y : Layout) (packetSize : Nat) (tx : List Byte) (n : Nat) : Prop :=
  tx = [y.opcRRxPayload] ∧ n = packetSize

/-- The write of a TX payload of 1 to 32 bytes (R141). -/
def isTxFrame (y : Layout) (tx : List Byte) (n : Nat) : Prop :=
  ∃ d : List Byte, 1 ≤ d.length ∧ d.length ≤ 32 ∧ n = 0 ∧ tx = y.opcWTxPayload :: d

/-- The direct write of the RX-ready bit to STATUS (42_transmit_receive.md R235). -/
def isClearFrame (y : Layout) (tx : List Byte) (n : Nat) : Prop :=
  tx = [y.opcWRegister + y.regStatus.setWidth 8, bitMask y.rxReadyBit] ∧ n = 0

/-- The agent's next primitive is the `Acquire()` of its operation. -/
def atAcquire (b : Busy) : Prop := b.course = .main ∧ (programOf b.op)[b.step]? = some .acquire

end Sys2Proof.Claims

open Sys2Proof Sys2Proof.Machine Sys2Proof.Claims

/-! ### Reset, decoding and the step -/

/-- R360: construction sets every block field to its reset value, whatever the parameters, the chip and the level
of the IRQ input; the trace is empty. (`packetSize` is unspecified there, and not stated.) -/
def Obligations.ConstructionSetsTheResetValues : Prop :=
  ∀ (p : Params) (c : Chip) (level : Bool),
    let s := State.construct p c level
    s.fsm = .uninitialized ∧ s.consumerRegistered = false ∧ s.lock = .free ∧ s.irqPending = 0 ∧
      s.edgeArmed = false ∧ s.ce = false ∧ s.faulted = false ∧ s.droppedCount = 0 ∧
      (∀ ag, s.seqOf ag = none) ∧ s.irqLevel = level ∧ s.trace = [] ∧ s.chip = c

/-- R63: the chip registers of the reset state read as CHIP_RESET, both FIFOs are empty. That the reset state is a
construction with the default parameters (one host agent among them, where R11 says any number from 1 on), this chip and
the IRQ line high is the model's choice (log entries 4, 5 and 17). -/
def Obligations.ResetChipReadsAsChipReset : Prop :=
  let c := State.reset.chip
  let y := State.reset.layout
  y = Layout.default ∧ State.reset = State.construct ⟨1, true, 1, y⟩ c true ∧
  c.readReg y 0x00 = [0x08] ∧ c.readReg y 0x01 = [0x3F] ∧ c.readReg y 0x02 = [0x03] ∧ c.readReg y 0x05 = [0x02] ∧
    c.readReg y 0x06 = [0x0F] ∧ c.readReg y 0x07 = [0x0E] ∧
    c.readReg y 0x0A = [0xE7, 0xE7, 0xE7, 0xE7, 0xE7] ∧ c.readReg y 0x0B = [0xC2, 0xC2, 0xC2, 0xC2, 0xC2] ∧
    c.readReg y 0x0C = [0xC3] ∧ c.readReg y 0x0D = [0xC4] ∧ c.readReg y 0x0E = [0xC5] ∧ c.readReg y 0x0F = [0xC6] ∧
    (∀ p : BitVec 3, p.toNat ≤ 5 → c.readReg y (0x11 + p.setWidth 5) = [0x00]) ∧
    c.rxFifo = [] ∧ c.txFifo = []

/-- Frames written out from R121, R125 and R133 (with the default opcodes) decode to what they stand for, lines of
R143's syntax assemble to it, and response frames are written as R122 says, with the status codes of R311. -/
def Obligations.FramesDecodeAsTheMapsSay : Prop :=
  decodeHost [0x08, 0x04, 0x0D, 0x28, 0x03, 0x01] = .ok (.init 0 [0x0D, 0x28, 0x03, 0x01]) ∧
    decodeHost [0x58, 0x02, 0xDE, 0xAD] = .ok (.send 0 [0xDE, 0xAD]) ∧
    decodeHost [0x9B, 0x01, 0x00] = .ok (.pipeSetAutoack 3 [0x00]) ∧
    decodeHost [0xFF, 0x00] = .ok (.reservedOp1F 7 []) ∧
    decodeWire Layout.default [0x25, 0x28] = .ok (.wRegister 0x05 [0x28]) ∧
    decodeWire Layout.default [0x61] = .ok .rRxPayload ∧
    decodeHost [0x10, 0x01] = .error .hostLengthMismatch ∧
    assembleLine "INIT 13, 40, 0DBM, 2MBPS ; 95_test_vectors.md P1".toList = some [.init 0 [0x0D, 0x28, 0x03, 0x01]] ∧
    assembleLine "PIPE_SET_AUTOACK P3, 0".toList = some [.pipeSetAutoack 3 [0x00]] ∧
    [Status.ok, .illegalOp, .faulted, .notInitialized, .alreadyInitialized, .pipeRange, .channelRange,
      .payloadSizeRange, .addressLength, .sendLength, .enumValue, .bus].map Status.code =
      [0x00, 0x01, 0x02, 0x03, 0x04, 0x05, 0x06, 0x07, 0x08, 0x09, 0x0A, 0x0B] ∧
    (∀ (st : Status) (data : List Byte), data.length ≤ 255 →
      (responseFrame st data).getD 0 0xFF = st.code ∧
      ((responseFrame st data).getD 1 0xFF).toNat = data.length ∧ (responseFrame st data).drop 2 = data) ∧
    (∀ (a n : Nat) (st : Status) (data : List Byte), Event.frameFor a (.resp n st data) =
      if n = a then some (st.code :: BitVec.ofNat 8 data.length :: data) else none)

/-- A step runs the decoded instruction: a frame presented at the host port by an Idle agent of the block, or a frame on
the wire, that decodes to `i` makes the step that of `exec i`, after the choice is taken and the agent recorded (log
entries 8 and 13). A frame of an agent that is not Idle or is none of the N_HOST_AGENTS is not taken (log entry 22). -/
def Obligations.StepRunsTheDecodedFrame : Prop :=
  ∀ (s : State) (a : Nat) (bytes : List Byte) (rest : List Input) (i : Instr),
    (s.agenda = .request a bytes :: rest → a < s.params.nHostAgents → s.seqOf (.host a) = none →
      decodeHost bytes = .ok i → step s = exec i { s with agenda := rest, requester := a }) ∧
    (s.agenda = .request a bytes :: rest ∨ s.agenda = .issue a bytes :: rest →
      s.params.nHostAgents ≤ a ∨ s.seqOf (.host a) ≠ none → step s = .next { s with agenda := rest }) ∧
    (s.agenda = .wire bytes :: rest → decodeWire s.layout bytes = .ok i →
      step s = exec i { s with agenda := rest })

/-- R124: frame decoding is total, and each of its refusals is answered with E_ILLEGAL_OP, without a wire event or
a change of block state: a wrong length, a reserved op, a non-zero pipe field of a device operation or a
disallowed L. -/
def Obligations.IllegalFramesAreRefused : Prop :=
  ∀ (s : State) (a : Nat) (bytes : List Byte) (rest : List Input),
    s.agenda = .request a bytes :: rest → a < s.params.nHostAgents → s.seqOf (.host a) = none →
    (bytes.length < 2 ∨ bytes.length ≠ 2 + (bytes.getD 1 0).toNat →
      step s = .next { s with agenda := rest, trace := s.trace ++ [.resp a .illegalOp []] }) ∧
    (∀ i, decodeHost bytes = .ok i → i.isOperation = false ∨ i.wellFormed s.layout = false →
      step s =
        .next { s with agenda := rest, requester := a, trace := s.trace ++ [.resp a .illegalOp []] }) ∧
    (¬(bytes.length < 2 ∨ bytes.length ≠ 2 + (bytes.getD 1 0).toNat) → ∃ i, decodeHost bytes = .ok i)

/-- Decoding the encoding of a well-formed instruction gives it back, with every operand at every value, in every
layout a chip can have (the defaults are one). -/
def Obligations.DecodeInvertsEncode : Prop :=
  Layout.default.wf = true ∧
    ∀ (y : Layout) (i : Instr), y.wf = true → i.wellFormed y = true → decode y i.port (encode y i) = .ok i

/-- A frame that decodes is the encoding of what it decodes to, so no two frames of a port mean the same. -/
def Obligations.EncodeInvertsDecode : Prop :=
  ∀ (y : Layout) (p : Port) (bytes : List Byte) (i : Instr), decode y p bytes = .ok i →
    i.port = p ∧ encode y i = bytes

/-! ### Validation -/

/-- R323: of the errors that apply to a frame the first in the rule's order is reported, and is the whole effect;
and the state checks that can have changed while the agent waited are made again after `Acquire()`
(41_device_config.md R190). -/
def Obligations.FirstErrorIsReported : Prop :=
  (∀ (a : Nat) (bytes : List Byte) (s : State) (e : DecodeError), a < s.params.nHostAgents →
    s.seqOf (.host a) = none → decodeHost bytes = .error e →
    runRequest a bytes s = .next { s with trace := s.trace ++ [.resp a .illegalOp []] }) ∧
  (∀ (bytes : List Byte) (i : Instr) (s : State) (c : Status), decodeHost bytes = .ok i →
    expectedError i s = some c → OnlyAnswers i s c) ∧
  (∀ (i : Instr) (a : Nat) (s : State), i.isOperation = true →
    s.seqOf (.host a) = some ⟨.instr i, 0, ⟨[], false⟩, .main⟩ → s.lock = .free →
    (s.faulted = true → moves (.host a) 4 s =
      ({ s with trace := s.trace ++ [.resp a .faulted []] } : State).setSeq (.host a) none) ∧
    (isInit i = true → s.faulted = false → s.fsm ≠ .uninitialized → moves (.host a) 5 s =
      ({ s with trace := s.trace ++ [.resp a .alreadyInitialized []] } : State).setSeq (.host a) none))

/-- R100, R99: an operation without an error that finds the exclusion held waits at `Acquire()`: nothing but its
sequencer changes. -/
def Obligations.OperationWaitsForTheExclusion : Prop :=
  ∀ (bytes : List Byte) (i : Instr) (s : State) (ag : Agent), decodeHost bytes = .ok i →
    i.isOperation = true → expectedError i s = none → s.lock = .held ag →
    exec i s = .next (s.setSeq (.host s.requester) (some ⟨.instr i, 0, ⟨[], false⟩, .main⟩))

/-- R314: once faulted, faulted for ever; every operation is refused; no RX drain starts. -/
def Obligations.FaultIsForEver : Prop :=
  (∀ s t, step s = .next t → s.faulted = true → t.faulted = true) ∧
    (∀ (i : Instr) (s : State), i.isOperation = true → i.wellFormed s.layout = true → s.faulted = true →
      OnlyAnswers i s .faulted) ∧
    (∀ s, s.faulted = true → (takeInterrupt s).trace = s.trace ∧ (takeInterrupt s).chip = s.chip ∧
      (takeInterrupt s).ce = s.ce) ∧
    (∀ s, s.faulted = true →
      s.irqSeq = none ∨ (∃ k l, k ≤ 2 ∧ s.irqSeq = some ⟨.drain, k, l, .main⟩) →
      (advance .irq s).trace = s.trace ∧ (advance .irq s).chip = s.chip ∧ (advance .irq s).ce = s.ce)

/-- R129: each of the twelve reserved op codes is answered with E_ILLEGAL_OP, whatever the pipe field, the
arguments and the state. -/
def Obligations.ReservedOpCodesAreRefused : Prop :=
  ∀ (p : BitVec 3) (a : List Byte) (s : State),
    OnlyAnswers (.reservedOp00 p a) s .illegalOp ∧ OnlyAnswers (.reservedOp0D p a) s .illegalOp ∧
    OnlyAnswers (.reservedOp0E p a) s .illegalOp ∧ OnlyAnswers (.reservedOp0F p a) s .illegalOp ∧
    OnlyAnswers (.reservedOp18 p a) s .illegalOp ∧ OnlyAnswers (.reservedOp19 p a) s .illegalOp ∧
    OnlyAnswers (.reservedOp1A p a) s .illegalOp ∧ OnlyAnswers (.reservedOp1B p a) s .illegalOp ∧
    OnlyAnswers (.reservedOp1C p a) s .illegalOp ∧ OnlyAnswers (.reservedOp1D p a) s .illegalOp ∧
    OnlyAnswers (.reservedOp1E p a) s .illegalOp ∧ OnlyAnswers (.reservedOp1F p a) s .illegalOp

/-! ### The device operations -/

/-- R192: INIT with the reference chip, every other field of the state unchanged; the rule's registers, masks and
shifts are those of the default layout. -/
def Obligations.InitConfiguresTheBlock : Prop :=
  (Layout.default.regRfSetup = 0x06 ∧ Layout.default.dataRateBit = 3 ∧ Layout.default.regRfCh = 0x05 ∧
    Layout.default.channelField = ⟨0x7F, 0⟩ ∧ Layout.default.regConfig = 0x00 ∧
    Layout.default.workingModeBit = 0) ∧
  ∀ (n ch pw r : Byte) (s : State),
    decodeHost [0x08, 0x04, n, ch, pw, r] = .ok (.init 0 [n, ch, pw, r]) ∧
    (s.ready → s.fsm = .uninitialized → n.toNat ≤ 32 → ch.toNat ≤ 127 → pw.toNat ≤ 3 → r.toNat ≤ 1 →
      s.onReference → exec (.init 0 [n, ch, pw, r]) s = .next (afterInit s n ch pw r))

/-- INIT in every environment: it configures the block and returns OK, or a transaction fails and the block is
faulted and Uninitialized with E_BUS returned, or a transaction hangs and the exclusion stays held. -/
def Obligations.InitInEveryEnvironment : Prop :=
  ∀ (n ch pw r : Byte) (s : State), s.ready → s.fsm = .uninitialized → n.toNat ≤ 32 → ch.toNat ≤ 127 →
    pw.toNat ≤ 3 → r.toNat ≤ 1 →
    ∃ t, exec (.init 0 [n, ch, pw, r]) s = .next t ∧ t.packetSize = n.toNat ∧
      ((t.fsm = .configuredRx ∧ t.ce = true ∧ t.edgeArmed = true ∧ t.faulted = false ∧ t.lock = .free ∧
          t.trace.getLast? = some (.resp s.requester .ok [])) ∨
        (t.fsm = .uninitialized ∧ t.ce = s.ce ∧ t.edgeArmed = s.edgeArmed ∧ t.faulted = true ∧ t.lock = .free ∧
          t.trace.getLast? = some (.resp s.requester .bus [])) ∨
        (t.fsm = .uninitialized ∧ t.ce = s.ce ∧ t.edgeArmed = s.edgeArmed ∧ t.faulted = false ∧
          t.lock = .held (.host s.requester)))

/-- R193: SET_CHANNEL; the rule's register and field are those of the default layout. -/
def Obligations.SetChannelWritesTheChannel : Prop :=
  Layout.default.regRfCh = 0x05 ∧ Layout.default.channelField = ⟨0x7F, 0⟩ ∧
  ∀ (ch : Byte) (s : State),
    decodeHost [0x10, 0x01, ch] = .ok (.setChannel 0 [ch]) ∧ RefusesErrors (.setChannel 0 [ch]) s ∧
    (s.configured → ch.toNat > 127 → OnlyAnswers (.setChannel 0 [ch]) s .channelRange) ∧
    (ch.toNat ≤ 127 → SetsField (.setChannel 0 [ch]) s.layout.regRfCh s.layout.channelField.mask
      s.layout.channelField.shift ch s)

/-- R195: SET_OUTPUT_POWER; the rule's register and field are those of the default layout. -/
def Obligations.SetOutputPowerWritesBitsTwoToOne : Prop :=
  Layout.default.regRfSetup = 0x06 ∧
  ∀ (pw : Byte) (s : State),
    decodeHost [0x20, 0x01, pw] = .ok (.setOutputPower 0 [pw]) ∧ RefusesErrors (.setOutputPower 0 [pw]) s ∧
    (s.configured → pw.toNat > 3 → OnlyAnswers (.setOutputPower 0 [pw]) s .enumValue) ∧
    (pw.toNat ≤ 3 → SetsField (.setOutputPower 0 [pw]) s.layout.regRfSetup 0x06 1 pw s)

/-- R197: SET_DATA_RATE; the rule's register and field are those of the default layout. -/
def Obligations.SetDataRateWritesBitThree : Prop :=
  Layout.default.regRfSetup = 0x06 ∧ Layout.default.dataRateBit = 3 ∧
  ∀ (r : Byte) (s : State),
    decodeHost [0x30, 0x01, r] = .ok (.setDataRate 0 [r]) ∧ RefusesErrors (.setDataRate 0 [r]) s ∧
    (s.configured → r.toNat > 1 → OnlyAnswers (.setDataRate 0 [r]) s .enumValue) ∧
    (r.toNat ≤ 1 → SetsField (.setDataRate 0 [r]) s.layout.regRfSetup (bitMask s.layout.dataRateBit)
      s.layout.dataRateBit.toNat r s)

/-- R199: SET_POWER_MODE; the rule's register and field are those of the default layout. -/
def Obligations.SetPowerModeWritesBitOne : Prop :=
  Layout.default.regConfig = 0x00 ∧
  ∀ (m : Byte) (s : State),
    decodeHost [0x40, 0x01, m] = .ok (.setPowerMode 0 [m]) ∧ RefusesErrors (.setPowerMode 0 [m]) s ∧
    (s.configured → m.toNat > 1 → OnlyAnswers (.setPowerMode 0 [m]) s .enumValue) ∧
    (m.toNat ≤ 1 → SetsField (.setPowerMode 0 [m]) s.layout.regConfig 0x02 1 m s)

/-- R194, R196, R198, R200, R201: the device GETs read the chip and nothing else; the rules' registers and fields are
those of the default layout. -/
def Obligations.DeviceGetsReadTheChip : Prop :=
  (Layout.default.regRfCh = 0x05 ∧ Layout.default.channelField = ⟨0x7F, 0⟩ ∧ Layout.default.regRfSetup = 0x06 ∧
    Layout.default.dataRateBit = 3 ∧ Layout.default.regConfig = 0x00 ∧ Layout.default.workingModeBit = 0) ∧
  (∀ s, decodeHost [0x18, 0x00] = .ok (.getChannel 0 []) ∧ RefusesErrors (.getChannel 0 []) s ∧
    GetsField (.getChannel 0 []) s.layout.regRfCh s.layout.channelField.mask s.layout.channelField.shift s) ∧
  (∀ s, decodeHost [0x28, 0x00] = .ok (.getOutputPower 0 []) ∧ RefusesErrors (.getOutputPower 0 []) s ∧
    GetsField (.getOutputPower 0 []) s.layout.regRfSetup 0x06 1 s) ∧
  (∀ s, decodeHost [0x38, 0x00] = .ok (.getDataRate 0 []) ∧ RefusesErrors (.getDataRate 0 []) s ∧
    GetsField (.getDataRate 0 []) s.layout.regRfSetup (bitMask s.layout.dataRateBit) s.layout.dataRateBit.toNat s) ∧
  (∀ s, decodeHost [0x48, 0x00] = .ok (.getPowerMode 0 []) ∧ RefusesErrors (.getPowerMode 0 []) s ∧
    GetsField (.getPowerMode 0 []) s.layout.regConfig 0x02 1 s) ∧
  (∀ s, decodeHost [0x50, 0x00] = .ok (.getWorkingMode 0 []) ∧ RefusesErrors (.getWorkingMode 0 []) s ∧
    GetsField (.getWorkingMode 0 []) s.layout.regConfig (bitMask s.layout.workingModeBit)
      s.layout.workingModeBit.toNat s)

/-! ### SEND and consumer registration -/

/-- R231: SEND with the reference chip, for a TX FIFO with room and for a full one, whose content is then any
(20_memory.md R112; log entry 11); every other field of the state unchanged. The count of held payloads, and the layout's
working-mode bit in place of R115's CONFIG bit 0, are the model's (log entries 14 and 2), and that
STATUS bit 0 (TX_FULL) stays when the payload fills the TX FIFO is the model's reading (log entry 23). The payload
length is the only thing it validates once the block is configured, in any power mode. -/
def Obligations.SendRunsItsSequence : Prop :=
  (∀ (payload : List Byte) (s : State), s.configured → s.onReference → 1 ≤ payload.length →
    payload.length ≤ s.packetSize → s.packetSize ≤ 32 →
    (s.chip.txFifo.length < 3 →
      exec (.send 0 payload) s = .next (afterSend s payload (s.chip.txFifo ++ [payload]) s.chip.held 0)) ∧
    (3 ≤ s.chip.txFifo.length → ∃ fifo, fifo.length ≤ 3 ∧
      exec (.send 0 payload) s = .next (afterSend s payload fifo (min s.chip.held fifo.length) 1))) ∧
  ∀ (payload : List Byte) (s : State), s.configured → payload.length = 0 ∨ s.packetSize < payload.length →
    OnlyAnswers (.send 0 payload) s .sendLength

/-- R232: in every environment a SEND that returns OK has made the switch back to Receive its last register write
and left the block in ConfiguredRx. -/
def Obligations.SendThatReturnsOkEndsInReceive : Prop :=
  ∀ (payload : List Byte) (s t : State) (es : List Event), s.configured →
    exec (.send 0 payload) s = .next t → t.trace = s.trace ++ es →
    es.getLast? = some (.resp s.requester .ok []) →
    t.fsm = .configuredRx ∧ t.lock = .free ∧ t.faulted = false ∧
      ∃ before v after, es = before ++ [writeEvent s.layout s.layout.regConfig [v]] ++ after ∧
        v.getLsbD s.layout.workingModeBit.toNat = true ∧
        ∀ e ∈ after, ∀ tx n rx, e ≠ .txn tx n rx

/-- R232, 95_test_vectors.md E5: any number of SENDs in a row leave the block and the reference chip in Receive
mode. -/
def Obligations.SendsInARowEndInReceive : Prop :=
  ∀ (payloads : List (List Byte)) (s : State), payloads ≠ [] → s.configured → s.onReference →
    s.packetSize ≤ 32 → (∀ p ∈ payloads, 1 ≤ p.length ∧ p.length ≤ s.packetSize) →
    ∃ t, sends payloads s = .next t ∧ t.fsm = .configuredRx ∧
      (t.chip.config t.layout).getLsbD t.layout.workingModeBit.toNat = true ∧ t.lock = .free ∧ t.faulted = false

/-- R234: REGISTER_CONSUMER, accepted before and after INIT, makes no wire event. -/
def Obligations.RegisterConsumerSetsTheFlag : Prop :=
  ∀ s : State, decodeHost [0x60, 0x00] = .ok (.registerConsumer 0 []) ∧
    (s.faulted = true → OnlyAnswers (.registerConsumer 0 []) s .faulted) ∧
    (s.ready → exec (.registerConsumer 0 []) s =
      .next { s with consumerRegistered := true, trace := s.trace ++ [.resp s.requester .ok []] })

/-! ### The pipe operations -/

/-- R271: PIPE_GET_ADDRESS returns the pipe's own register, 5 bytes for pipes 0 and 1, 1 for pipes 2 to 5; the
rule's register is that of the default layout. -/
def Obligations.PipeGetAddressReturnsTheRegister : Prop :=
  Layout.default.regRxAddrP0 = 0x0A ∧
  ∀ (p : BitVec 3) (s : State),
    decodeHost [0x80 ||| p.setWidth 8, 0x00] = .ok (.pipeGetAddress p []) ∧
    RefusesErrors (.pipeGetAddress p []) s ∧
    (s.configured → p.toNat ≤ 5 →
      GetsInEveryEnvironment (.pipeGetAddress p []) (s.layout.regRxAddrP0 + p.setWidth 5) (if p.toNat ≤ 1 then 5 else 1)
        (fun rx => rx) s ∧
      (s.onReference → exec (.pipeGetAddress p []) s =
        .next (afterGet s (s.layout.regRxAddrP0 + p.setWidth 5)
          (s.chip.readReg s.layout (s.layout.regRxAddrP0 + p.setWidth 5)))))

/-- R272: PIPE_SET_ADDRESS replaces the low bytes of the pipe's register and keeps the rest as read; a length
against the pipe's rule is refused. The rule's register is that of the default layout. -/
def Obligations.PipeSetAddressReplacesTheLowBytes : Prop :=
  Layout.default.regRxAddrP0 = 0x0A ∧
  ∀ (p : BitVec 3) (a : List Byte) (s : State), s.configured → p.toNat ≤ 5 →
    let w := if p.toNat ≤ 1 then 5 else 1
    let legal := if p.toNat ≤ 1 then 1 ≤ a.length ∧ a.length ≤ 5 else a.length = 1
    (¬legal → OnlyAnswers (.pipeSetAddress p a) s .addressLength) ∧
    (legal →
      decodeHost ((0x88 ||| p.setWidth 8) :: BitVec.ofNat 8 a.length :: a) = .ok (.pipeSetAddress p a) ∧
      SetsInEveryEnvironment (.pipeSetAddress p a) (s.layout.regRxAddrP0 + p.setWidth 5) w
        (fun rx => a ++ (rx.take w).drop a.length) s ∧
      (s.onReference → exec (.pipeSetAddress p a) s =
        .next (afterSet s (s.layout.regRxAddrP0 + p.setWidth 5)
          (a ++ (s.chip.readReg s.layout (s.layout.regRxAddrP0 + p.setWidth 5)).drop a.length))))

/-- R273, R274: PIPE_GET_AUTOACK and PIPE_SET_AUTOACK on bit p of EN_AA;
the rules' register and field are those of the default layout. -/
def Obligations.PipeAutoackIsBitPOfEnAa : Prop :=
  Layout.default.regEnAa = 0x01 ∧
  ∀ (p : BitVec 3) (f : Byte) (s : State),
    decodeHost [0x90 ||| p.setWidth 8, 0x00] = .ok (.pipeGetAutoack p []) ∧
    decodeHost [0x98 ||| p.setWidth 8, 0x01, f] = .ok (.pipeSetAutoack p [f]) ∧
    RefusesErrors (.pipeGetAutoack p []) s ∧ RefusesErrors (.pipeSetAutoack p [f]) s ∧ (p.toNat ≤ 5 →
    GetsField (.pipeGetAutoack p []) s.layout.regEnAa (bitMask p) p.toNat s ∧
    (s.configured → f.toNat > 1 → OnlyAnswers (.pipeSetAutoack p [f]) s .enumValue) ∧
    (f.toNat ≤ 1 → SetsField (.pipeSetAutoack p [f]) s.layout.regEnAa (bitMask p) p.toNat f s))

/-- R275, R276: PIPE_GET_PAYLOAD_SIZE and PIPE_SET_PAYLOAD_SIZE on bits 5:0 of RX_PW_Pp;
the rules' register and field are those of the default layout. -/
def Obligations.PipePayloadSizeIsTheLowSixBits : Prop :=
  Layout.default.regRxPwP0 = 0x11 ∧ Layout.default.payloadSizeField = ⟨0x3F, 0⟩ ∧
  ∀ (p : BitVec 3) (n : Byte) (s : State),
    decodeHost [0xA0 ||| p.setWidth 8, 0x00] = .ok (.pipeGetPayloadSize p []) ∧
    decodeHost [0xA8 ||| p.setWidth 8, 0x01, n] = .ok (.pipeSetPayloadSize p [n]) ∧
    RefusesErrors (.pipeGetPayloadSize p []) s ∧ RefusesErrors (.pipeSetPayloadSize p [n]) s ∧ (p.toNat ≤ 5 →
    GetsField (.pipeGetPayloadSize p []) (s.layout.regRxPwP0 + p.setWidth 5) s.layout.payloadSizeField.mask
      s.layout.payloadSizeField.shift s ∧
    (s.configured → n.toNat > 32 → OnlyAnswers (.pipeSetPayloadSize p [n]) s .payloadSizeRange) ∧
    (n.toNat ≤ 32 → SetsField (.pipeSetPayloadSize p [n]) (s.layout.regRxPwP0 + p.setWidth 5)
      s.layout.payloadSizeField.mask s.layout.payloadSizeField.shift n s))

/-- R277, R278: PIPE_GET_ENABLED and PIPE_SET_ENABLED on bit p of EN_RXADDR;
the rules' register and field are those of the default layout. -/
def Obligations.PipeEnabledIsBitPOfEnRxaddr : Prop :=
  Layout.default.regEnRxaddr = 0x02 ∧ Layout.default.enabledBits = [0, 1, 2, 3, 4, 5] ∧
  ∀ (p : BitVec 3) (f : Byte) (s : State),
    decodeHost [0xB0 ||| p.setWidth 8, 0x00] = .ok (.pipeGetEnabled p []) ∧
    decodeHost [0xB8 ||| p.setWidth 8, 0x01, f] = .ok (.pipeSetEnabled p [f]) ∧
    RefusesErrors (.pipeGetEnabled p []) s ∧ RefusesErrors (.pipeSetEnabled p [f]) s ∧ (p.toNat ≤ 5 →
    GetsField (.pipeGetEnabled p []) s.layout.regEnRxaddr (bitMask (enabledBit s.layout p))
      (enabledBit s.layout p).toNat s ∧
    (s.configured → f.toNat > 1 → OnlyAnswers (.pipeSetEnabled p [f]) s .enumValue) ∧
    (f.toNat ≤ 1 → SetsField (.pipeSetEnabled p [f]) s.layout.regEnRxaddr (bitMask (enabledBit s.layout p))
      (enabledBit s.layout p).toNat f s))

/-- R279: setting one pipe's auto-ack or enabled bit alters no other bit: in every environment the byte written
differs from the byte read in that pipe's bit at most, and with the reference chip the register before and after
does. -/
def Obligations.SettingOnePipesBitAltersNoOther : Prop :=
  ∀ (p : BitVec 3) (f : Byte) (s t : State), p.toNat ≤ 5 → f.toNat ≤ 1 → s.configured →
    (exec (.pipeSetAutoack p [f]) s = .next t →
      (∀ pre old new post, t.trace = s.trace ++ pre ++
        [readEvent s.layout s.layout.regEnAa [old], writeEvent s.layout s.layout.regEnAa [new]] ++ post →
        onlyBit p.toNat old new) ∧
      (s.onReference → onlyBit p.toNat (s.chip.regByte s.layout.regEnAa) (t.chip.regByte s.layout.regEnAa))) ∧
    (exec (.pipeSetEnabled p [f]) s = .next t →
      (∀ pre old new post, t.trace = s.trace ++ pre ++
        [readEvent s.layout s.layout.regEnRxaddr [old], writeEvent s.layout s.layout.regEnRxaddr [new]] ++ post →
        onlyBit (enabledBit s.layout p).toNat old new) ∧
      (s.onReference → onlyBit (enabledBit s.layout p).toNat (s.chip.regByte s.layout.regEnRxaddr)
        (t.chip.regByte s.layout.regEnRxaddr)))

/-- R280: with the reference chip, a payload size set is the payload size got. -/
def Obligations.PayloadSizeRoundTrips : Prop :=
  ∀ (p : BitVec 3) (n : Byte) (s : State), p.toNat ≤ 5 → n.toNat ≤ 32 → s.configured → s.onReference →
    ∃ t u, exec (.pipeSetPayloadSize p [n]) s = .next t ∧ exec (.pipeGetPayloadSize p []) t = .next u ∧
      u.trace.getLast? = some (.resp s.requester .ok [n])

/-- R281: address lengths 1 to 5 pass on pipes 0 and 1 (the address is set, in every environment whose answers
complete); lengths above 1 fail on pipes 2 to 5 without bus traffic. -/
def Obligations.AddressLengthsPassAndFail : Prop :=
  ∀ (p : BitVec 3) (a : List Byte) (s : State), s.configured →
    (p.toNat ≤ 1 → 1 ≤ a.length → a.length ≤ 5 → expectedError (.pipeSetAddress p a) s = none ∧
      (s.onReference → ∃ t, exec (.pipeSetAddress p a) s = .next t ∧
        t.trace.getLast? = some (.resp s.requester .ok []))) ∧
    (2 ≤ p.toNat → p.toNat ≤ 5 → 1 < a.length → OnlyAnswers (.pipeSetAddress p a) s .addressLength)

/-- R64, R65, R106: what the GETs return is the view of the chip at that moment. -/
def Obligations.GetsReturnTheViews : Prop :=
  ∀ (p : BitVec 3) (s : State), p.toNat ≤ 5 → s.configured → s.onReference →
    let y := s.layout
    (exec (.getChannel 0 []) s = .next (afterGet s y.regRfCh [(s.chip.deviceConfig y).channel])) ∧
    (exec (.getOutputPower 0 []) s = .next (afterGet s y.regRfSetup [(s.chip.deviceConfig y).outputPower])) ∧
    (exec (.getDataRate 0 []) s = .next (afterGet s y.regRfSetup [(s.chip.deviceConfig y).dataRate])) ∧
    (exec (.getPowerMode 0 []) s = .next (afterGet s y.regConfig [(s.chip.deviceConfig y).powerMode])) ∧
    (exec (.getWorkingMode 0 []) s = .next (afterGet s y.regConfig [(s.chip.deviceConfig y).workingMode])) ∧
    (exec (.pipeGetAddress p []) s =
      .next (afterGet s (y.regRxAddrP0 + p.setWidth 5) (s.chip.pipe y p).address)) ∧
    (exec (.pipeGetAutoack p []) s = .next (afterGet s y.regEnAa [(s.chip.pipe y p).autoAck])) ∧
    (exec (.pipeGetPayloadSize p []) s =
      .next (afterGet s (y.regRxPwP0 + p.setWidth 5) [(s.chip.pipe y p).payloadSize])) ∧
    (exec (.pipeGetEnabled p []) s = .next (afterGet s y.regEnRxaddr [(s.chip.pipe y p).enabled]))

/-! ### The wire commands -/

/-- R138: the frame of R_REGISTER of a register of R50, and what the chip answers to it. That it is an instruction
which reaches the chip from outside the block, and that the reference chip answers when the environment has chosen
nothing, is the model's choice (log entries 13 and 6). -/
def Obligations.ReadRegisterReturnsTheRegister : Prop :=
  ∀ (r : BitVec 5) (s : State), WellFormed.widthOf s.layout r ≠ 0 →
    (s.layout.wf = true → decodeWire s.layout [s.layout.opcRRegister + r.setWidth 8] = .ok (.rRegister r)) ∧
    OneFrame (.rRegister r) [s.layout.opcRRegister + r.setWidth 8] (WellFormed.widthOf s.layout r) s ∧
    (s.onReference → exec (.rRegister r) s = .next { s with wireRx := s.chip.readReg s.layout r })

/-- R139: W_REGISTER of a register of R50 at its full width (log entries 13 and 6). -/
def Obligations.WriteRegisterWritesTheRegister : Prop :=
  ∀ (r : BitVec 5) (v : List Byte) (s : State), WellFormed.widthOf s.layout r ≠ 0 →
    v.length = WellFormed.widthOf s.layout r →
    (s.layout.wf = true → decodeWire s.layout ((s.layout.opcWRegister + r.setWidth 8) :: v) = .ok (.wRegister r v)) ∧
    OneFrame (.wRegister r v) ((s.layout.opcWRegister + r.setWidth 8) :: v) 0 s ∧
    (s.onReference → exec (.wRegister r v) s =
      .next { s with chip := s.chip.writeReg s.layout r v, wireRx := [] })

/-- R140, R111: R_RX_PAYLOAD asks for packetSize bytes; the reference chip gives those of the head entry, and any
value beyond them (log entries 10 and 13). -/
def Obligations.ReadRxPayloadTakesTheHead : Prop :=
  ∀ s : State, (s.layout.wf = true → decodeWire s.layout [s.layout.opcRRxPayload] = .ok .rRxPayload) ∧
    OneFrame .rRxPayload [s.layout.opcRRxPayload] s.packetSize s ∧
    (s.onReference → ∃ fill : List Byte, fill.length = s.packetSize - (headData s.chip).length ∧
      exec .rRxPayload s =
        .next { s with
          chip := afterPop s.chip s.layout
          free := s.free + (s.packetSize - (headData s.chip).length)
          wireRx := (headData s.chip).take s.packetSize ++ fill })

/-- R141, R112: W_TX_PAYLOAD appends the payload; the content of a full TX FIFO is any afterwards (log entries 11
and 13). How many payloads a hold has seen is the model's own (log entry 14), and that STATUS bit 0 (TX_FULL) stays when
the payload fills the TX FIFO is the model's reading (log entry 23). -/
def Obligations.WriteTxPayloadAppends : Prop :=
  ∀ (d : List Byte) (s : State), 1 ≤ d.length → d.length ≤ 32 →
    (s.layout.wf = true → decodeWire s.layout (s.layout.opcWTxPayload :: d) = .ok (.wTxPayload d)) ∧
    OneFrame (.wTxPayload d) (s.layout.opcWTxPayload :: d) 0 s ∧
    (s.onReference → s.chip.txFifo.length < 3 → exec (.wTxPayload d) s =
      .next { s with chip := { s.chip with txFifo := s.chip.txFifo ++ [d] }, wireRx := [] }) ∧
    (s.onReference → 3 ≤ s.chip.txFifo.length → ∃ fifo, fifo.length ≤ 3 ∧ exec (.wTxPayload d) s =
      .next { s with
        chip := { s.chip with txFifo := fifo, held := min s.chip.held fifo.length }
        free := s.free + 1
        wireRx := [] })

/-- A wire register command to an address of no register of 10_state.md R50, as the model has it (log entry 9):
a read asks for some number of bytes of any value, a write changes nothing the reference chip holds. -/
def Obligations.UndescribedRegistersHoldNothing : Prop :=
  ∀ (r : BitVec 5) (v : List Byte) (s : State), WellFormed.widthOf s.layout r = 0 → s.onReference →
    (∃ (n : Nat) (rx : List Byte), rx.length = n ∧ exec (.rRegister r) s =
      .next { s with free := s.free + n, wireRx := rx }) ∧
    (v.length ≤ 32 → exec (.wRegister r v) s = .next { s with wireRx := [] })

/-- R109, R110: a register write of the reference chip, byte by byte: it changes the bytes written up to the
register's width, STATUS clears the flags written as 1 (bits 6:4 in the default layout), and every other address reads
as before. That in another layout the RX-ready bit stands in place of STATUS bit 6 is the model's reading of R110 (log
entry 2). -/
def Obligations.ReferenceWriteChangesItsRegisterOnly : Prop :=
  (Layout.default.regStatus = 0x07 ∧ Layout.default.rxReadyBit = 6) ∧
  (∀ (y : Layout) (c : Chip) (r : BitVec 5) (v : List Byte), r ≠ y.regStatus →
    (∀ (j : Nat) (h : j < v.length), j < WellFormed.widthOf y r →
      (c.writeReg y r v).regs.read (8 * r.toNat + j) = v[j]) ∧
    (∀ k, k < 8 * r.toNat ∨ 8 * r.toNat + min v.length (WellFormed.widthOf y r) ≤ k →
      (c.writeReg y r v).regs.read k = c.regs.read k) ∧
    (c.writeReg y r v).rxFifo = c.rxFifo ∧ (c.writeReg y r v).txFifo = c.txFifo) ∧
  (∀ (y : Layout) (c : Chip) (b : Byte),
    (∀ j, ((c.writeReg y y.regStatus [b]).status y).getLsbD j =
      ((c.status y).getLsbD j && !(decide (j = y.rxReadyBit.toNat ∨ j = 5 ∨ j = 4) && b.getLsbD j))) ∧
    (∀ k, k ≠ 8 * y.regStatus.toNat → (c.writeReg y y.regStatus [b]).regs.read k = c.regs.read k) ∧
    (c.writeReg y y.regStatus [b]).rxFifo = c.rxFifo ∧ (c.writeReg y y.regStatus [b]).txFifo = c.txFifo)

/-! ### Codec -/

/-- R162 to R169: each decoder reads its bits and ignores the others, at the default positions and at any others a
layout has. -/
def Obligations.DecodersReadTheirBits : Prop :=
  (∀ (v : Byte) (p : BitVec 3), p.toNat ≤ 5 →
    decodePowerMode Layout.default v = (if v.getLsbD 1 then 1 else 0) ∧
    decodeWorkingMode Layout.default v = (if v.getLsbD 0 then 1 else 0) ∧
    (decodeOutputPower Layout.default v).toNat = v.toNat / 2 % 4 ∧
    decodeDataRate Layout.default v = (if v.getLsbD 3 then 1 else 0) ∧
    (decodeChannel Layout.default v).toNat = v.toNat % 128 ∧
    decodeAutoAck Layout.default v p = (if v.getLsbD p.toNat then 1 else 0) ∧
    decodeEnabled Layout.default v p = (if v.getLsbD p.toNat then 1 else 0) ∧
    (decodePayloadSize Layout.default v).toNat = v.toNat % 64) ∧
  ∀ (y : Layout) (v : Byte) (p : BitVec 3),
    decodePowerMode y v = (if v.getLsbD 1 then 1 else 0) ∧
    decodeWorkingMode y v = (if v.getLsbD y.workingModeBit.toNat then 1 else 0) ∧
    (decodeOutputPower y v).toNat = v.toNat / 2 % 4 ∧
    decodeDataRate y v = (if v.getLsbD y.dataRateBit.toNat then 1 else 0) ∧
    decodeChannel y v = (v &&& y.channelField.mask) >>> y.channelField.shift ∧
    decodeAutoAck y v p = (if v.getLsbD p.toNat then 1 else 0) ∧
    decodeEnabled y v p = (if v.getLsbD (enabledBit y p).toNat then 1 else 0) ∧
    decodePayloadSize y v = (v &&& y.payloadSizeField.mask) >>> y.payloadSizeField.shift

/-- R170: `insert` takes the shifted value's bits under the mask and the old bits elsewhere. -/
def Obligations.InsertChangesTheMaskOnly : Prop :=
  ∀ (f : Field) (old val : Byte),
    f.put old val = insertBits old f.mask f.shift val ∧
    ∀ j, (f.put old val).getLsbD j = if f.mask.getLsbD j then (val <<< f.shift).getLsbD j else old.getLsbD j

/-! ### The interrupt path and the reference chip's events -/

/-- R319: a falling edge is latched, up to the depth, when the notification is armed, whoever holds the exclusion;
otherwise only the sampled level changes. -/
def Obligations.FallingEdgesAreLatched : Prop :=
  ∀ (s : State) (level : Bool),
    (s.irqLevel = true → level = false → s.edgeArmed = true →
      sampleIrq level s =
        { s with irqLevel := level, irqPending := min (s.irqPending + 1) s.params.irqPendingDepth }) ∧
    (¬(s.irqLevel = true ∧ level = false ∧ s.edgeArmed = true) →
      sampleIrq level s = { s with irqLevel := level })

/-- R325, R235: the handler of a pending edge with the reference chip: chip-enable low, packetSize bytes read, the
direct status write (of 0x40 in the default layout), chip-enable high, the exclusion released, and the packet delivered
or dropped. That the reference chip takes the layout's RX-ready bit in place of STATUS bit 6 (log entry 2), and any
value for the bytes beyond the head entry's (log entry 10), is the model's reading. -/
def Obligations.HandlerDrainsOnePacket : Prop :=
  (bitMask Layout.default.rxReadyBit = 0x40 ∧ Layout.default.opcRRxPayload = 0x61) ∧
  ∀ s : State, s.irqSeq = none → 0 < s.irqPending → s.ready → s.fsm = .configuredRx → s.onReference →
    ∃ fill : List Byte, fill.length = s.packetSize - (headData s.chip).length ∧
      let pkt := (headData s.chip).take s.packetSize ++ fill
      takeInterrupt s =
        { s with
          irqPending := s.irqPending - 1
          ce := true
          droppedCount := if s.consumerRegistered then s.droppedCount else s.droppedCount + 1
          chip := (afterPop s.chip s.layout).writeReg s.layout s.layout.regStatus [bitMask s.layout.rxReadyBit]
          free := s.free + (s.packetSize - (headData s.chip).length)
          trace := s.trace ++
            [.ce false, .txn [s.layout.opcRRxPayload] s.packetSize pkt,
              writeEvent s.layout s.layout.regStatus [bitMask s.layout.rxReadyBit], .ce true,
              if s.consumerRegistered then .deliver pkt else .drop pkt] }

/-- R325: an edge is discarded without an event by a block that is faulted or not in ConfiguredRx; a handler that
finds the exclusion held has taken its edge and waits; without an edge, or busy, the IRQ agent does nothing. -/
def Obligations.HandlerDiscardsWaitsOrRests : Prop :=
  ∀ s : State,
    (s.irqSeq = none → 0 < s.irqPending → s.lock = .free → s.faulted = true ∨ s.fsm ≠ .configuredRx →
      takeInterrupt s = { s with irqPending := s.irqPending - 1 }) ∧
    (∀ ag, s.irqSeq = none → 0 < s.irqPending → s.lock = .held ag →
      takeInterrupt s = { s with irqPending := s.irqPending - 1, irqSeq := some ⟨.drain, 1, ⟨[], false⟩, .main⟩ }) ∧
    (s.irqPending = 0 ∨ s.irqSeq ≠ none → takeInterrupt s = s)

/-- R239: in every environment a packet delivered or dropped has exactly packetSize bytes: by the handler run at once,
in every state; and by every step, the IRQ agent's moves among them, of a state whose operations in progress hold what
they have read (`sequencersOk`, which StepKeepsSequencersValid says every step keeps). -/
def Obligations.PacketsHavePacketSizeBytes : Prop :=
  (∀ (s : State) (es : List Event), (takeInterrupt s).trace = s.trace ++ es →
    ∀ e ∈ es, ∀ pkt, e = .deliver pkt ∨ e = .drop pkt → pkt.length = s.packetSize) ∧
  ∀ (s t : State) (es : List Event), s.sequencersOk → step s = .next t → t.trace = s.trace ++ es →
    ∀ e ∈ es, ∀ pkt, e = .deliver pkt ∨ e = .drop pkt → pkt.length = s.packetSize

/-- R114: the reference chip's IRQ line is low exactly when an unmasked flag is set (the RX-ready flag is bit 6 in the
default layout). That in another layout the RX-ready bit stands in place of STATUS bit 6, still masked by CONFIG bit 6,
is the model's reading (log entry 2). -/
def Obligations.IrqLineIsLowForUnmaskedFlags : Prop :=
  Layout.default.rxReadyBit = 6 ∧
  ∀ (y : Layout) (c : Chip), c.irqLine y = false ↔
    (((c.status y).getLsbD y.rxReadyBit.toNat = true ∧ (c.config y).getLsbD 6 = false) ∨
      ((c.status y).getLsbD 5 = true ∧ (c.config y).getLsbD 5 = false) ∨
      ((c.status y).getLsbD 4 = true ∧ (c.config y).getLsbD 4 = false))

/-- R113: reference reception; that a packet whose conditions do not hold changes nothing, that a packet of 0 bytes
meets them on a pipe whose size is 0, and that one of more than 32 bytes meets them on a pipe whose size field says so,
is the model's reading (log entry 19). So is that the layout's working-mode
and RX-ready bits stand in place of the rule's CONFIG bit 0 and STATUS bit 6, and its enabled bits and payload-size
field in place of the rule's (log entry 2). -/
def Obligations.ReceptionFillsTheRxFifo : Prop :=
  ∀ (p : BitVec 3) (d : List Byte) (s : State),
    let y := s.layout
    let ok := (s.chip.config y).getLsbD 1 = true ∧ (s.chip.config y).getLsbD y.workingModeBit.toNat = true ∧
      s.ce = true ∧ s.chip.rxFifo.length < 3 ∧ p.toNat ≤ 5 ∧
      (s.chip.regByte y.regEnRxaddr).getLsbD (enabledBit y p).toNat = true ∧
      d.length = ((s.chip.regByte (y.regRxPwP0 + p.setWidth 5) &&& y.payloadSizeField.mask) >>>
        y.payloadSizeField.shift).toNat
    (ok → receive p d s =
      { s with chip := { s.chip with
          rxFifo := s.chip.rxFifo ++ [⟨p, d⟩]
          regs := s.chip.regs.write (8 * y.regStatus.toNat)
            ((if s.chip.rxFifo = [] then withPipeNumber (s.chip.status y) p else s.chip.status y) |||
              bitMask y.rxReadyBit) } }) ∧
    (¬ok → receive p d s = s)

/-- R115, as the model counts it (log entry 14): when the hold passes, or at the end of SEND's hold, with chip-enable
high in power mode Up and Transmit mode, every payload then queued may go; a transmission needs one of those left,
takes the head, sets TX_DS or MAX_RT and leaves one fewer. That the layout's working-mode bit stands in place of the
rule's CONFIG bit 0 (log entry 2), that a transmission whose conditions do not hold changes nothing (log entry 19), and
that one from a full TX FIFO leaves STATUS bit 0 (TX_FULL) (log entry 23), is the model's reading too. -/
def Obligations.TransmissionTakesTheTxHead : Prop :=
  (∀ s : State,
    let holds := s.ce = true ∧ (s.chip.config s.layout).getLsbD 1 = true ∧
      (s.chip.config s.layout).getLsbD s.layout.workingModeBit.toNat = false
    (holds → holdPasses s = { s with chip := { s.chip with held := s.chip.txFifo.length } } ∧
      (s.doDelay .ceHold).chip = { s.chip with held := s.chip.txFifo.length }) ∧
    (¬holds → holdPasses s = s ∧ (s.doDelay .ceHold).chip = s.chip)) ∧
  ∀ (sent : Bool) (s : State),
    (s.chip.held = 0 ∨ s.chip.txFifo = [] → transmit sent s = s) ∧
    (∀ n d rest, s.chip.held = n + 1 → s.chip.txFifo = d :: rest → transmit sent s =
      { s with chip := { s.chip with
          txFifo := rest
          held := n
          regs := s.chip.regs.write (8 * s.layout.regStatus.toNat)
            (s.chip.status s.layout ||| (if sent then 0x20 else 0x10)) } })

/-! ### Errors of the bus -/

/-- R313, R235: in every environment an operation that meets a bus error frees the exclusion and returns E_BUS as its
one response, before it wire events and delays only; an RX drain that meets one frees the exclusion and ends with wire
events only, no packet and no response. The same move by move: the failing transaction records nothing, then the
exclusion is freed, then a host operation returns its code. -/
def Obligations.BusErrorIsReturnedOnce : Prop :=
  (∀ (i : Instr) (s t : State), i.isOperation = true → s.ready → exec i s = .next t → t.faulted = true →
    t.lock = .free ∧ t.hostSeq = s.hostSeq ∧
      ∃ es, t.trace = s.trace ++ es ++ [.resp s.requester .bus []] ∧
        ∀ e ∈ es, e.isWire = true ∨ ∃ d, e = .delay d) ∧
  (∀ s : State, s.ready → (takeInterrupt s).faulted = true →
    (takeInterrupt s).lock = .free ∧ (takeInterrupt s).irqSeq = none ∧ (takeInterrupt s).hostSeq = s.hostSeq ∧
      ∃ es, (takeInterrupt s).trace = s.trace ++ es ∧ ∀ e ∈ es, e.isWire = true) ∧
  ∀ (s : State) (ag : Agent) (b : Busy), s.seqOf ag = some b → s.faulted = false →
    (advance ag s).faulted = true →
    ((advance ag s).trace = s.trace ∧ (advance ag s).lock = s.lock ∧
      (advance ag s).seqOf ag = some { b with course := .raised .bus }) ∧
    (∀ n i, ag = .host n → b.op = .instr i →
      (moves ag 3 s).lock = .free ∧ (moves ag 3 s).seqOf ag = none ∧
        (moves ag 3 s).trace = s.trace ++ [.resp n .bus []]) ∧
    (ag = .irq → b.op = .drain →
      (moves ag 2 s).lock = .free ∧ (moves ag 2 s).seqOf ag = none ∧ (moves ag 2 s).trace = s.trace)

/-- R315: an instruction or a drain whose transaction hangs leaves its agent holding the exclusion with no further
move; an agent that stands at the `Acquire()` of an operation or of the handler has no move while it is held; and
whatever happens outside, no number of steps frees the exclusion or moves the hung agent. -/
def Obligations.HungTransactionHoldsForEver : Prop :=
  (∀ (i : Instr) (s t : State) (ag : Agent), s.ready → exec i s = .next t → t.lock = .held ag →
    ag = .host s.requester ∧ (∃ b, t.seqOf ag = some b ∧ b.course = .hung) ∧ advance ag t = t) ∧
  (∀ (s : State) (ag : Agent), s.ready → (takeInterrupt s).lock = .held ag →
    ag = .irq ∧ (∃ b, (takeInterrupt s).irqSeq = some b ∧ b.course = .hung) ∧
      advance .irq (takeInterrupt s) = takeInterrupt s) ∧
  (∀ (s : State) (ag holder : Agent) (b : Busy), s.lock = .held holder → s.seqOf ag = some b → atAcquire b →
    advance ag s = s) ∧
  (∀ (s : State) (ag : Agent) (b : Busy), s.exclusive → s.seqOf ag = some b → b.course = .hung →
    ∀ (k : Nat) (t : State), Sys2Proof.core.run k s = Host.Outcome.next t →
      t.lock = .held ag ∧ t.seqOf ag = some b)

/-! ### Whole-machine rules -/

/-- What an operation of the host may change besides the trace, the chip, the environment's answers and the count
of free values, in every environment: each block field is written by the operations 10_state.md R30 names. -/
def Obligations.OperationsChangeOnlyTheirFields : Prop :=
  ∀ (i : Instr) (s t : State), i.isOperation = true → exec i s = .next t →
    t.irqPending = s.irqPending ∧ t.irqLevel = s.irqLevel ∧ t.droppedCount = s.droppedCount ∧
    t.irqSeq = s.irqSeq ∧ t.params = s.params ∧ t.agenda = s.agenda ∧ t.requester = s.requester ∧
    t.wireRx = s.wireRx ∧
    (∀ n, n ≠ s.requester → t.seqOf (.host n) = s.seqOf (.host n)) ∧
    (isInit i = false → t.packetSize = s.packetSize ∧ t.edgeArmed = s.edgeArmed) ∧
    ((∀ p a, i ≠ .registerConsumer p a) → t.consumerRegistered = s.consumerRegistered) ∧
    (isInit i = false → (∀ p a, i ≠ .send p a) → t.fsm = s.fsm ∧ t.ce = s.ce)

/-- Nothing takes back what a step may do once: parameters stay, the trace only grows, the fault, the armed edge
notification and the consumer stay, the drop count does not fall, and the block never returns to Uninitialized
(R31, R38, R42, R234, R314). -/
def Obligations.StepsNeverTakeBack : Prop :=
  ∀ s t : State, step s = .next t →
    t.params = s.params ∧ (∃ es, t.trace = s.trace ++ es) ∧ (s.faulted = true → t.faulted = true) ∧
    (s.edgeArmed = true → t.edgeArmed = true) ∧ (s.consumerRegistered = true → t.consumerRegistered = true) ∧
    s.droppedCount ≤ t.droppedCount ∧ (s.fsm ≠ .uninitialized → t.fsm ≠ .uninitialized)

/-- R97: an agent's move makes a wire event only while that agent holds the exclusion, before and after it. -/
def Obligations.WireEventsNeedTheExclusion : Prop :=
  ∀ (s : State) (ag : Agent) (es : List Event), s.exclusive → (advance ag s).trace = s.trace ++ es →
    hasWireEvent es → s.lock = .held ag ∧ (advance ag s).lock = .held ag

/-- R133 to R141: what the block puts on the wire. Every transaction of a step is a read or a write of a register of
R50 at its width, the read of packetSize bytes of RX payload or the write of 1 to 32 bytes of TX payload, from every
state whose operations in progress are valid, in every environment and layout a chip can have. An operation makes
register reads and writes only, but for SEND's one TX payload; the handler makes the RX payload read and the status
write only. In the default layout none of the four begins with the byte of FLUSH_TX, FLUSH_RX, REUSE_TX_PL or NOP. -/
def Obligations.FramesEmittedAreTheFour : Prop :=
  (∀ (s t : State) (es : List Event), s.layout.wf = true → s.packetSizeOk → s.sequencersOk → step s = .next t →
    t.trace = s.trace ++ es → ∀ tx n rx, Event.txn tx n rx ∈ es → rx.length = n ∧
      (isReadFrame s.layout tx n ∨ isWriteFrame s.layout tx n ∨ isRxFrame s.layout s.packetSize tx n ∨
        isTxFrame s.layout tx n)) ∧
  (∀ (i : Instr) (s t : State) (es : List Event), s.layout.wf = true → s.packetSize ≤ 32 → i.isOperation = true →
    exec i s = .next t → t.trace = s.trace ++ es → ∀ tx n rx, Event.txn tx n rx ∈ es →
      isReadFrame s.layout tx n ∨ isWriteFrame s.layout tx n ∨
        ∃ p a, i = .send p a ∧ tx = s.layout.opcWTxPayload :: a ∧ n = 0 ∧ 1 ≤ a.length ∧ a.length ≤ 32) ∧
  (∀ (s : State) (es : List Event), (takeInterrupt s).trace = s.trace ++ es → ∀ tx n rx, Event.txn tx n rx ∈ es →
    isRxFrame s.layout s.packetSize tx n ∨ isClearFrame s.layout tx n) ∧
  ∀ (size : Nat) (tx : List Byte) (n : Nat),
    isReadFrame Layout.default tx n ∨ isWriteFrame Layout.default tx n ∨ isRxFrame Layout.default size tx n ∨
      isTxFrame Layout.default tx n →
    ∀ b ∈ tx.head?, b ≠ 0xE1 ∧ b ≠ 0xE2 ∧ b ≠ 0xE3 ∧ b ≠ 0xFF

/-- R41: running an operation at once is the same as moving its agent primitive by primitive; so is running the
handler (log entry 16). -/
def Obligations.RunsAreSequencerMoves : Prop :=
  (∀ (s : State) (bytes : List Byte) (i : Instr), decodeHost bytes = .ok i →
    s.seqOf (.host s.requester) = none →
    ∃ n t, exec i s = .next t ∧ moves (.host s.requester) n (issue s.requester bytes s) = t) ∧
  (∀ s : State, s.irqSeq = none → ∃ n, moves .irq n s = takeInterrupt s)

/-- Only a wire frame can stop the machine: every other step has a next state. -/
def Obligations.OnlyWireFramesStop : Prop :=
  ∀ s : State, (∀ f rest, s.agenda ≠ .wire f :: rest) → ∃ t, step s = .next t

/-! ### Invariants -/

/-- Every step keeps the chip's register memory in its canonical form (log entry 4) and the FIFOs within their
depth. -/
def Obligations.StepKeepsTheChipCanonical : Prop :=
  ∀ s t : State, s.chipOk → step s = .next t → t.chipOk

/-- Every step keeps mutual exclusion (R35, R97). -/
def Obligations.StepKeepsMutualExclusion : Prop :=
  ∀ s t : State, s.exclusive → step s = .next t → t.exclusive

/-- Every step keeps ConfiguredTx inside a SEND that holds the exclusion, or in a faulted block (R230); so no agent
that takes the exclusion of a block that is not faulted finds it in ConfiguredTx (R329). -/
def Obligations.StepKeepsTransmitInsideSend : Prop :=
  (∀ s t : State, s.exclusive → s.transmitOk → step s = .next t → t.transmitOk) ∧
    ∀ s : State, s.exclusive → s.transmitOk → s.lock = .free → s.faulted = false → s.fsm ≠ .configuredTx

/-- Every step keeps the interrupt latch within its depth (R36), the packet size in 0..32 (R33), and every busy host
agent one of the N_HOST_AGENTS (R11, R334). -/
def Obligations.StepKeepsLatchPacketSizeAndAgentsInRange : Prop :=
  (∀ s t : State, s.latchOk → step s = .next t → t.latchOk) ∧
    (∀ s t : State, s.packetSizeOk → step s = .next t → t.packetSizeOk) ∧
    ∀ s t : State, s.agentsOk → step s = .next t → t.agentsOk

/-- Every step keeps the operations in progress valid: validated operands, all of what they write back or deliver read,
no drain past its mode check of an uninitialised block, and no INIT about to write packetSize of a configured one (R41,
R173, R192, R235, R323). -/
def Obligations.StepKeepsSequencersValid : Prop :=
  ∀ s t : State, s.exclusive → s.packetSizeOk → s.sequencersOk → step s = .next t → t.sequencersOk

/-- The reset state meets the invariants; its packetSize 0 is the model's choice (log entry 1). -/
def Obligations.ResetMeetsTheInvariants : Prop :=
  State.reset.chipOk ∧ State.reset.exclusive ∧ State.reset.transmitOk ∧ State.reset.latchOk ∧
    State.reset.packetSizeOk ∧ State.reset.agentsOk ∧ State.reset.sequencersOk ∧ State.reset.layout.wf = true
end

