-- ==== Sys2Proof/Laws/Memory.lean ====
section
/-! SUPPORT. The laws of the chip register memory: a read after a write, and every operation keeps the canonical
form. -/

namespace Sys2Proof.Machine

open Sys2Proof

theorem Memory.read_erase_self (m : Memory) (k : Nat) : Memory.read (Memory.erase m k) k = Memory.unlisted k := by
  induction m with
  | nil => rfl
  | cons c m ih =>
    obtain ⟨k', v⟩ := c
    by_cases h : k' = k <;> simp_all [Memory.erase, Memory.read]

theorem Memory.read_erase_ne (m : Memory) {k j : Nat} (h : j ≠ k) :
    Memory.read (Memory.erase m k) j = Memory.read m j := by
  induction m with
  | nil => rfl
  | cons c m ih =>
    obtain ⟨k', v⟩ := c
    by_cases hk : k' = k
    · subst hk
      simpa [Memory.erase, Memory.read, h.symm] using ih
    · by_cases hj : k' = j <;> simp_all [Memory.erase, Memory.read]

theorem Memory.read_insertCell_self (m : Memory) (k : Nat) (v : Byte) (h : ∀ c ∈ m, c.1 ≠ k) :
    Memory.read (Memory.insertCell m k v) k = v := by
  induction m with
  | nil => simp [Memory.insertCell, Memory.read]
  | cons c m ih =>
    obtain ⟨k', v'⟩ := c
    have hk : k' ≠ k := h (k', v') (by simp)
    have hm : ∀ c ∈ m, c.1 ≠ k := fun c hc => h c (by simp [hc])
    by_cases hl : k < k' <;> simp [Memory.insertCell, Memory.read, hl, hk, ih hm]

theorem Memory.read_insertCell_ne (m : Memory) {k j : Nat} (v : Byte) (h : j ≠ k) :
    Memory.read (Memory.insertCell m k v) j = Memory.read m j := by
  induction m with
  | nil => simp [Memory.insertCell, Memory.read, h.symm]
  | cons c m ih =>
    obtain ⟨k', v'⟩ := c
    by_cases hl : k < k'
    · simp [Memory.insertCell, Memory.read, hl, h.symm]
    · simp [Memory.insertCell, Memory.read, hl, ih]

theorem Memory.erase_ne (m : Memory) (k : Nat) : ∀ c ∈ Memory.erase m k, c.1 ≠ k := by
  intro c hc
  simpa [Memory.erase] using (List.mem_filter.mp hc).2

/-- A read of the address written gives the byte written. -/
theorem Memory.read_write_self (m : Memory) (k : Nat) (v : Byte) : Memory.read (Memory.write m k v) k = v := by
  unfold Memory.write
  split
  · next h => rw [Memory.read_erase_self, h]
  · exact Memory.read_insertCell_self _ _ _ (Memory.erase_ne m k)

/-- A write leaves every other address alone. -/
theorem Memory.read_write_ne (m : Memory) {k j : Nat} (v : Byte) (h : j ≠ k) :
    Memory.read (Memory.write m k v) j = Memory.read m j := by
  unfold Memory.write
  split
  · exact Memory.read_erase_ne m h
  · rw [Memory.read_insertCell_ne _ _ h, Memory.read_erase_ne m h]

/-- Bytes written from `k` up leave every address outside them alone. -/
theorem Memory.read_writeBytes_outside (m : Memory) (k : Nat) (vs : List Byte) (j : Nat)
    (h : j < k ∨ k + vs.length ≤ j) : Memory.read (Memory.writeBytes m k vs) j = Memory.read m j := by
  induction vs generalizing m k with
  | nil => rfl
  | cons v vs ih =>
    simp only [List.length_cons] at h
    rw [Memory.writeBytes, ih _ _ (by omega), Memory.read_write_ne _ _ (by omega)]

/-- Byte `i` of the bytes written from `k` up. -/
theorem Memory.read_writeBytes_inside (m : Memory) (k : Nat) (vs : List Byte) (i : Nat) (h : i < vs.length) :
    Memory.read (Memory.writeBytes m k vs) (k + i) = vs[i] := by
  induction vs generalizing m k i with
  | nil => simp at h
  | cons v vs ih =>
    cases i with
    | zero =>
      rw [Memory.writeBytes, Memory.read_writeBytes_outside _ _ _ _ (by omega)]
      exact Memory.read_write_self _ _ _
    | succ i =>
      have := ih (m.write k v) (k + 1) i (by simpa using h)
      simpa [Memory.writeBytes, Nat.add_assoc, Nat.add_comm 1 i] using this

theorem Memory.length_readBytes (m : Memory) (k n : Nat) : (Memory.readBytes m k n).length = n := by
  induction n generalizing k with
  | zero => rfl
  | succ n ih => simp [Memory.readBytes, ih]

/-! ### The canonical form -/

/-- Every cell's address is above `k`. -/
def Memory.above (m : Memory) (k : Nat) : Prop := ∀ c ∈ m, k < c.1

theorem Memory.wf_cons_iff (k : Nat) (v : Byte) (m : Memory) :
    Memory.wf ((k, v) :: m) = true ↔ v ≠ Memory.unlisted k ∧ Memory.above m k ∧ Memory.wf m = true := by
  induction m generalizing k v with
  | nil => simp [Memory.wf, Memory.above]
  | cons c m ih =>
    obtain ⟨k', v'⟩ := c
    constructor
    · intro h
      simp only [Memory.wf, Bool.and_eq_true, decide_eq_true_eq] at h
      obtain ⟨⟨hv, hk⟩, hw⟩ := h
      refine ⟨hv, ?_, by simpa [Memory.wf] using hw⟩
      have hab := ((ih k' v').mp (by simpa [Memory.wf] using hw)).2.1
      intro c hc
      rcases List.mem_cons.mp hc with rfl | hc
      · exact hk
      · exact Nat.lt_trans hk (hab c hc)
    · rintro ⟨hv, hab, hw⟩
      have hk : k < k' := hab (k', v') (by simp)
      simp only [Memory.wf, Bool.and_eq_true, decide_eq_true_eq] at hw ⊢
      exact ⟨⟨hv, hk⟩, hw⟩

theorem Memory.above_erase {m : Memory} {k : Nat} (j : Nat) (h : Memory.above m k) :
    Memory.above (Memory.erase m j) k :=
  fun c hc => h c (List.mem_filter.mp hc).1

theorem Memory.above_insertCell {m : Memory} {k j : Nat} (v : Byte) (h : Memory.above m k) (hj : k < j) :
    Memory.above (Memory.insertCell m j v) k := by
  induction m with
  | nil => simpa [Memory.insertCell, Memory.above] using hj
  | cons c m ih =>
    obtain ⟨k', v'⟩ := c
    have hm : Memory.above m k := fun c hc => h c (by simp [hc])
    have hk : k < k' := h (k', v') (by simp)
    by_cases hl : j < k'
    · intro c hc
      simp only [Memory.insertCell, hl, if_true, List.mem_cons] at hc
      rcases hc with rfl | rfl | hc
      · exact hj
      · exact hk
      · exact hm c hc
    · intro c hc
      simp only [Memory.insertCell, hl, if_false, List.mem_cons] at hc
      rcases hc with rfl | hc
      · exact hk
      · exact ih hm c hc

theorem Memory.wf_erase {m : Memory} (j : Nat) (h : Memory.wf m = true) : Memory.wf (Memory.erase m j) = true := by
  induction m with
  | nil => rfl
  | cons c m ih =>
    obtain ⟨k, v⟩ := c
    obtain ⟨hv, hab, hw⟩ := (Memory.wf_cons_iff k v m).mp h
    by_cases hk : k = j
    · subst hk
      simpa [Memory.erase] using ih hw
    · have e : Memory.erase ((k, v) :: m) j = (k, v) :: Memory.erase m j := by simp [Memory.erase, hk]
      rw [e, Memory.wf_cons_iff]
      exact ⟨hv, Memory.above_erase j hab, ih hw⟩

theorem Memory.wf_insertCell {m : Memory} {j : Nat} {v : Byte} (h : Memory.wf m = true)
    (hn : ∀ c ∈ m, c.1 ≠ j) (hv : v ≠ Memory.unlisted j) : Memory.wf (Memory.insertCell m j v) = true := by
  induction m with
  | nil => simpa [Memory.insertCell, Memory.wf] using hv
  | cons c m ih =>
    obtain ⟨k', v'⟩ := c
    obtain ⟨hv', hab, hw⟩ := (Memory.wf_cons_iff k' v' m).mp h
    have hne : k' ≠ j := hn (k', v') (by simp)
    have hm : ∀ c ∈ m, c.1 ≠ j := fun c hc => hn c (by simp [hc])
    by_cases hl : j < k'
    · simp only [Memory.insertCell, hl, if_true]
      rw [Memory.wf_cons_iff]
      refine ⟨hv, ?_, h⟩
      intro c hc
      rcases List.mem_cons.mp hc with rfl | hc
      · exact hl
      · exact Nat.lt_trans hl (hab c hc)
    · simp only [Memory.insertCell, hl, if_false]
      rw [Memory.wf_cons_iff]
      exact ⟨hv', Memory.above_insertCell v hab (by omega), ih hw hm⟩

/-- A write keeps the canonical form. -/
theorem Memory.wf_write {m : Memory} (k : Nat) (v : Byte) (h : Memory.wf m = true) :
    Memory.wf (Memory.write m k v) = true := by
  unfold Memory.write
  split
  · exact Memory.wf_erase k h
  · next hv => exact Memory.wf_insertCell (Memory.wf_erase k h) (Memory.erase_ne m k) hv

/-- Writing several bytes keeps the canonical form. -/
theorem Memory.wf_writeBytes {m : Memory} (k : Nat) (vs : List Byte) (h : Memory.wf m = true) :
    Memory.wf (Memory.writeBytes m k vs) = true := by
  induction vs generalizing m k with
  | nil => exact h
  | cons v vs ih => exact ih (k + 1) (Memory.wf_write k v h)

/-- The chip's register writes keep the canonical form. -/
theorem Chip.wf_regs_writeReg {c : Chip} (y : Layout) (reg : BitVec 5) (v : List Byte)
    (h : Memory.wf c.regs = true) : Memory.wf (c.writeReg y reg v).regs = true := by
  unfold Chip.writeReg
  split
  · cases v with
    | nil => exact h
    | cons b _ => exact Memory.wf_write _ _ h
  · exact Memory.wf_writeBytes _ _ h

/-- The memory of the reset state has the canonical form. -/
theorem Memory.wf_reset : Memory.wf State.reset.chip.regs = true := rfl

/-! ### Registers of the chip -/

/-- A register of width 1 reads as its cell. -/
theorem Chip.readReg_of_width_one (c : Chip) {y : Layout} {reg : BitVec 5} (h : regWidth y reg = 1) :
    c.readReg y reg = [c.regByte reg] := by
  simp [Chip.readReg, h, Memory.readBytes, Chip.regByte]

theorem Chip.length_readReg (c : Chip) (y : Layout) (reg : BitVec 5) :
    (c.readReg y reg).length = regWidth y reg :=
  Memory.length_readBytes _ _ _

end Sys2Proof.Machine
end

