-- ==== Sys2Proof/Laws/State.lean ====
section
/-! SUPPORT. What each elementary update of the state leaves in each field, one lemma a field, so that no later
proof unfolds a record update. -/

namespace Sys2Proof.Machine

@[simp] theorem State.emit_fsm (s : State) (e : Event) : (s.emit e).fsm = s.fsm := rfl
@[simp] theorem State.emit_packetSize (s : State) (e : Event) : (s.emit e).packetSize = s.packetSize := rfl
@[simp] theorem State.emit_consumerRegistered (s : State) (e : Event) : (s.emit e).consumerRegistered = s.consumerRegistered := rfl
@[simp] theorem State.emit_lock (s : State) (e : Event) : (s.emit e).lock = s.lock := rfl
@[simp] theorem State.emit_irqPending (s : State) (e : Event) : (s.emit e).irqPending = s.irqPending := rfl
@[simp] theorem State.emit_irqLevel (s : State) (e : Event) : (s.emit e).irqLevel = s.irqLevel := rfl
@[simp] theorem State.emit_edgeArmed (s : State) (e : Event) : (s.emit e).edgeArmed = s.edgeArmed := rfl
@[simp] theorem State.emit_ce (s : State) (e : Event) : (s.emit e).ce = s.ce := rfl
@[simp] theorem State.emit_faulted (s : State) (e : Event) : (s.emit e).faulted = s.faulted := rfl
@[simp] theorem State.emit_droppedCount (s : State) (e : Event) : (s.emit e).droppedCount = s.droppedCount := rfl
@[simp] theorem State.emit_hostSeq (s : State) (e : Event) : (s.emit e).hostSeq = s.hostSeq := rfl
@[simp] theorem State.emit_irqSeq (s : State) (e : Event) : (s.emit e).irqSeq = s.irqSeq := rfl
@[simp] theorem State.emit_params (s : State) (e : Event) : (s.emit e).params = s.params := rfl
@[simp] theorem State.emit_chip (s : State) (e : Event) : (s.emit e).chip = s.chip := rfl
@[simp] theorem State.emit_trace (s : State) (e : Event) : (s.emit e).trace = s.trace ++ [e] := rfl
@[simp] theorem State.emit_agenda (s : State) (e : Event) : (s.emit e).agenda = s.agenda := rfl
@[simp] theorem State.emit_answers (s : State) (e : Event) : (s.emit e).answers = s.answers := rfl
@[simp] theorem State.emit_requester (s : State) (e : Event) : (s.emit e).requester = s.requester := rfl
@[simp] theorem State.emit_wireRx (s : State) (e : Event) : (s.emit e).wireRx = s.wireRx := rfl
@[simp] theorem State.emit_free (s : State) (e : Event) : (s.emit e).free = s.free := rfl

@[simp] theorem State.respond_fsm (s : State) (a : Nat) (st : Status) (d : List Byte) : (s.respond a st d).fsm = s.fsm := rfl
@[simp] theorem State.respond_packetSize (s : State) (a : Nat) (st : Status) (d : List Byte) : (s.respond a st d).packetSize = s.packetSize := rfl
@[simp] theorem State.respond_consumerRegistered (s : State) (a : Nat) (st : Status) (d : List Byte) : (s.respond a st d).consumerRegistered = s.consumerRegistered := rfl
@[simp] theorem State.respond_lock (s : State) (a : Nat) (st : Status) (d : List Byte) : (s.respond a st d).lock = s.lock := rfl
@[simp] theorem State.respond_irqPending (s : State) (a : Nat) (st : Status) (d : List Byte) : (s.respond a st d).irqPending = s.irqPending := rfl
@[simp] theorem State.respond_irqLevel (s : State) (a : Nat) (st : Status) (d : List Byte) : (s.respond a st d).irqLevel = s.irqLevel := rfl
@[simp] theorem State.respond_edgeArmed (s : State) (a : Nat) (st : Status) (d : List Byte) : (s.respond a st d).edgeArmed = s.edgeArmed := rfl
@[simp] theorem State.respond_ce (s : State) (a : Nat) (st : Status) (d : List Byte) : (s.respond a st d).ce = s.ce := rfl
@[simp] theorem State.respond_faulted (s : State) (a : Nat) (st : Status) (d : List Byte) : (s.respond a st d).faulted = s.faulted := rfl
@[simp] theorem State.respond_droppedCount (s : State) (a : Nat) (st : Status) (d : List Byte) : (s.respond a st d).droppedCount = s.droppedCount := rfl
@[simp] theorem State.respond_hostSeq (s : State) (a : Nat) (st : Status) (d : List Byte) : (s.respond a st d).hostSeq = s.hostSeq := rfl
@[simp] theorem State.respond_irqSeq (s : State) (a : Nat) (st : Status) (d : List Byte) : (s.respond a st d).irqSeq = s.irqSeq := rfl
@[simp] theorem State.respond_params (s : State) (a : Nat) (st : Status) (d : List Byte) : (s.respond a st d).params = s.params := rfl
@[simp] theorem State.respond_chip (s : State) (a : Nat) (st : Status) (d : List Byte) : (s.respond a st d).chip = s.chip := rfl
@[simp] theorem State.respond_trace (s : State) (a : Nat) (st : Status) (d : List Byte) : (s.respond a st d).trace = s.trace ++ [.resp a st d] := rfl
@[simp] theorem State.respond_agenda (s : State) (a : Nat) (st : Status) (d : List Byte) : (s.respond a st d).agenda = s.agenda := rfl
@[simp] theorem State.respond_answers (s : State) (a : Nat) (st : Status) (d : List Byte) : (s.respond a st d).answers = s.answers := rfl
@[simp] theorem State.respond_requester (s : State) (a : Nat) (st : Status) (d : List Byte) : (s.respond a st d).requester = s.requester := rfl
@[simp] theorem State.respond_wireRx (s : State) (a : Nat) (st : Status) (d : List Byte) : (s.respond a st d).wireRx = s.wireRx := rfl
@[simp] theorem State.respond_free (s : State) (a : Nat) (st : Status) (d : List Byte) : (s.respond a st d).free = s.free := rfl

@[simp] theorem State.setLock_fsm (s : State) (l : Lock) : (s.setLock l).fsm = s.fsm := rfl
@[simp] theorem State.setLock_packetSize (s : State) (l : Lock) : (s.setLock l).packetSize = s.packetSize := rfl
@[simp] theorem State.setLock_consumerRegistered (s : State) (l : Lock) : (s.setLock l).consumerRegistered = s.consumerRegistered := rfl
@[simp] theorem State.setLock_lock (s : State) (l : Lock) : (s.setLock l).lock = l := rfl
@[simp] theorem State.setLock_irqPending (s : State) (l : Lock) : (s.setLock l).irqPending = s.irqPending := rfl
@[simp] theorem State.setLock_irqLevel (s : State) (l : Lock) : (s.setLock l).irqLevel = s.irqLevel := rfl
@[simp] theorem State.setLock_edgeArmed (s : State) (l : Lock) : (s.setLock l).edgeArmed = s.edgeArmed := rfl
@[simp] theorem State.setLock_ce (s : State) (l : Lock) : (s.setLock l).ce = s.ce := rfl
@[simp] theorem State.setLock_faulted (s : State) (l : Lock) : (s.setLock l).faulted = s.faulted := rfl
@[simp] theorem State.setLock_droppedCount (s : State) (l : Lock) : (s.setLock l).droppedCount = s.droppedCount := rfl
@[simp] theorem State.setLock_hostSeq (s : State) (l : Lock) : (s.setLock l).hostSeq = s.hostSeq := rfl
@[simp] theorem State.setLock_irqSeq (s : State) (l : Lock) : (s.setLock l).irqSeq = s.irqSeq := rfl
@[simp] theorem State.setLock_params (s : State) (l : Lock) : (s.setLock l).params = s.params := rfl
@[simp] theorem State.setLock_chip (s : State) (l : Lock) : (s.setLock l).chip = s.chip := rfl
@[simp] theorem State.setLock_trace (s : State) (l : Lock) : (s.setLock l).trace = s.trace := rfl
@[simp] theorem State.setLock_agenda (s : State) (l : Lock) : (s.setLock l).agenda = s.agenda := rfl
@[simp] theorem State.setLock_answers (s : State) (l : Lock) : (s.setLock l).answers = s.answers := rfl
@[simp] theorem State.setLock_requester (s : State) (l : Lock) : (s.setLock l).requester = s.requester := rfl
@[simp] theorem State.setLock_wireRx (s : State) (l : Lock) : (s.setLock l).wireRx = s.wireRx := rfl
@[simp] theorem State.setLock_free (s : State) (l : Lock) : (s.setLock l).free = s.free := rfl

@[simp] theorem State.setChip_fsm (s : State) (c : Chip) : (s.setChip c).fsm = s.fsm := rfl
@[simp] theorem State.setChip_packetSize (s : State) (c : Chip) : (s.setChip c).packetSize = s.packetSize := rfl
@[simp] theorem State.setChip_consumerRegistered (s : State) (c : Chip) : (s.setChip c).consumerRegistered = s.consumerRegistered := rfl
@[simp] theorem State.setChip_lock (s : State) (c : Chip) : (s.setChip c).lock = s.lock := rfl
@[simp] theorem State.setChip_irqPending (s : State) (c : Chip) : (s.setChip c).irqPending = s.irqPending := rfl
@[simp] theorem State.setChip_irqLevel (s : State) (c : Chip) : (s.setChip c).irqLevel = s.irqLevel := rfl
@[simp] theorem State.setChip_edgeArmed (s : State) (c : Chip) : (s.setChip c).edgeArmed = s.edgeArmed := rfl
@[simp] theorem State.setChip_ce (s : State) (c : Chip) : (s.setChip c).ce = s.ce := rfl
@[simp] theorem State.setChip_faulted (s : State) (c : Chip) : (s.setChip c).faulted = s.faulted := rfl
@[simp] theorem State.setChip_droppedCount (s : State) (c : Chip) : (s.setChip c).droppedCount = s.droppedCount := rfl
@[simp] theorem State.setChip_hostSeq (s : State) (c : Chip) : (s.setChip c).hostSeq = s.hostSeq := rfl
@[simp] theorem State.setChip_irqSeq (s : State) (c : Chip) : (s.setChip c).irqSeq = s.irqSeq := rfl
@[simp] theorem State.setChip_params (s : State) (c : Chip) : (s.setChip c).params = s.params := rfl
@[simp] theorem State.setChip_chip (s : State) (c : Chip) : (s.setChip c).chip = c := rfl
@[simp] theorem State.setChip_trace (s : State) (c : Chip) : (s.setChip c).trace = s.trace := rfl
@[simp] theorem State.setChip_agenda (s : State) (c : Chip) : (s.setChip c).agenda = s.agenda := rfl
@[simp] theorem State.setChip_answers (s : State) (c : Chip) : (s.setChip c).answers = s.answers := rfl
@[simp] theorem State.setChip_requester (s : State) (c : Chip) : (s.setChip c).requester = s.requester := rfl
@[simp] theorem State.setChip_wireRx (s : State) (c : Chip) : (s.setChip c).wireRx = s.wireRx := rfl
@[simp] theorem State.setChip_free (s : State) (c : Chip) : (s.setChip c).free = s.free := rfl

@[simp] theorem State.driveCe_fsm (s : State) (b : Bool) : (s.driveCe b).fsm = s.fsm := rfl
@[simp] theorem State.driveCe_packetSize (s : State) (b : Bool) : (s.driveCe b).packetSize = s.packetSize := rfl
@[simp] theorem State.driveCe_consumerRegistered (s : State) (b : Bool) : (s.driveCe b).consumerRegistered = s.consumerRegistered := rfl
@[simp] theorem State.driveCe_lock (s : State) (b : Bool) : (s.driveCe b).lock = s.lock := rfl
@[simp] theorem State.driveCe_irqPending (s : State) (b : Bool) : (s.driveCe b).irqPending = s.irqPending := rfl
@[simp] theorem State.driveCe_irqLevel (s : State) (b : Bool) : (s.driveCe b).irqLevel = s.irqLevel := rfl
@[simp] theorem State.driveCe_edgeArmed (s : State) (b : Bool) : (s.driveCe b).edgeArmed = s.edgeArmed := rfl
@[simp] theorem State.driveCe_ce (s : State) (b : Bool) : (s.driveCe b).ce = b := rfl
@[simp] theorem State.driveCe_faulted (s : State) (b : Bool) : (s.driveCe b).faulted = s.faulted := rfl
@[simp] theorem State.driveCe_droppedCount (s : State) (b : Bool) : (s.driveCe b).droppedCount = s.droppedCount := rfl
@[simp] theorem State.driveCe_hostSeq (s : State) (b : Bool) : (s.driveCe b).hostSeq = s.hostSeq := rfl
@[simp] theorem State.driveCe_irqSeq (s : State) (b : Bool) : (s.driveCe b).irqSeq = s.irqSeq := rfl
@[simp] theorem State.driveCe_params (s : State) (b : Bool) : (s.driveCe b).params = s.params := rfl
@[simp] theorem State.driveCe_chip (s : State) (b : Bool) : (s.driveCe b).chip = s.chip := rfl
@[simp] theorem State.driveCe_trace (s : State) (b : Bool) : (s.driveCe b).trace = s.trace ++ [.ce b] := rfl
@[simp] theorem State.driveCe_agenda (s : State) (b : Bool) : (s.driveCe b).agenda = s.agenda := rfl
@[simp] theorem State.driveCe_answers (s : State) (b : Bool) : (s.driveCe b).answers = s.answers := rfl
@[simp] theorem State.driveCe_requester (s : State) (b : Bool) : (s.driveCe b).requester = s.requester := rfl
@[simp] theorem State.driveCe_wireRx (s : State) (b : Bool) : (s.driveCe b).wireRx = s.wireRx := rfl
@[simp] theorem State.driveCe_free (s : State) (b : Bool) : (s.driveCe b).free = s.free := rfl

@[simp] theorem State.doDelay_fsm (s : State) (d : DelayName) : (s.doDelay d).fsm = s.fsm := by cases d <;> rfl
@[simp] theorem State.doDelay_packetSize (s : State) (d : DelayName) : (s.doDelay d).packetSize = s.packetSize := by cases d <;> rfl
@[simp] theorem State.doDelay_consumerRegistered (s : State) (d : DelayName) : (s.doDelay d).consumerRegistered = s.consumerRegistered := by cases d <;> rfl
@[simp] theorem State.doDelay_lock (s : State) (d : DelayName) : (s.doDelay d).lock = s.lock := by cases d <;> rfl
@[simp] theorem State.doDelay_irqPending (s : State) (d : DelayName) : (s.doDelay d).irqPending = s.irqPending := by cases d <;> rfl
@[simp] theorem State.doDelay_irqLevel (s : State) (d : DelayName) : (s.doDelay d).irqLevel = s.irqLevel := by cases d <;> rfl
@[simp] theorem State.doDelay_edgeArmed (s : State) (d : DelayName) : (s.doDelay d).edgeArmed = s.edgeArmed := by cases d <;> rfl
@[simp] theorem State.doDelay_ce (s : State) (d : DelayName) : (s.doDelay d).ce = s.ce := by cases d <;> rfl
@[simp] theorem State.doDelay_faulted (s : State) (d : DelayName) : (s.doDelay d).faulted = s.faulted := by cases d <;> rfl
@[simp] theorem State.doDelay_droppedCount (s : State) (d : DelayName) : (s.doDelay d).droppedCount = s.droppedCount := by cases d <;> rfl
@[simp] theorem State.doDelay_hostSeq (s : State) (d : DelayName) : (s.doDelay d).hostSeq = s.hostSeq := by cases d <;> rfl
@[simp] theorem State.doDelay_irqSeq (s : State) (d : DelayName) : (s.doDelay d).irqSeq = s.irqSeq := by cases d <;> rfl
@[simp] theorem State.doDelay_params (s : State) (d : DelayName) : (s.doDelay d).params = s.params := by cases d <;> rfl
@[simp] theorem State.doDelay_agenda (s : State) (d : DelayName) : (s.doDelay d).agenda = s.agenda := by cases d <;> rfl
@[simp] theorem State.doDelay_answers (s : State) (d : DelayName) : (s.doDelay d).answers = s.answers := by cases d <;> rfl
@[simp] theorem State.doDelay_requester (s : State) (d : DelayName) : (s.doDelay d).requester = s.requester := by cases d <;> rfl
@[simp] theorem State.doDelay_wireRx (s : State) (d : DelayName) : (s.doDelay d).wireRx = s.wireRx := by cases d <;> rfl
@[simp] theorem State.doDelay_free (s : State) (d : DelayName) : (s.doDelay d).free = s.free := by cases d <;> rfl
@[simp] theorem State.doDelay_trace (s : State) (d : DelayName) : (s.doDelay d).trace = s.trace ++ [.delay d] := by
  cases d <;> rfl
@[simp] theorem State.doDelay_chip_ceHold (s : State) : (s.doDelay .ceHold).chip = s.chip.noteHold s.layout s.ce := rfl
@[simp] theorem State.doDelay_chip_initSettle (s : State) : (s.doDelay .initSettle).chip = s.chip := rfl

@[simp] theorem State.setSeq_fsm (s : State) (ag : Agent) (b : Option Busy) : (s.setSeq ag b).fsm = s.fsm := by cases ag <;> rfl
@[simp] theorem State.setSeq_packetSize (s : State) (ag : Agent) (b : Option Busy) : (s.setSeq ag b).packetSize = s.packetSize := by cases ag <;> rfl
@[simp] theorem State.setSeq_consumerRegistered (s : State) (ag : Agent) (b : Option Busy) : (s.setSeq ag b).consumerRegistered = s.consumerRegistered := by cases ag <;> rfl
@[simp] theorem State.setSeq_lock (s : State) (ag : Agent) (b : Option Busy) : (s.setSeq ag b).lock = s.lock := by cases ag <;> rfl
@[simp] theorem State.setSeq_irqPending (s : State) (ag : Agent) (b : Option Busy) : (s.setSeq ag b).irqPending = s.irqPending := by cases ag <;> rfl
@[simp] theorem State.setSeq_irqLevel (s : State) (ag : Agent) (b : Option Busy) : (s.setSeq ag b).irqLevel = s.irqLevel := by cases ag <;> rfl
@[simp] theorem State.setSeq_edgeArmed (s : State) (ag : Agent) (b : Option Busy) : (s.setSeq ag b).edgeArmed = s.edgeArmed := by cases ag <;> rfl
@[simp] theorem State.setSeq_ce (s : State) (ag : Agent) (b : Option Busy) : (s.setSeq ag b).ce = s.ce := by cases ag <;> rfl
@[simp] theorem State.setSeq_faulted (s : State) (ag : Agent) (b : Option Busy) : (s.setSeq ag b).faulted = s.faulted := by cases ag <;> rfl
@[simp] theorem State.setSeq_droppedCount (s : State) (ag : Agent) (b : Option Busy) : (s.setSeq ag b).droppedCount = s.droppedCount := by cases ag <;> rfl
@[simp] theorem State.setSeq_params (s : State) (ag : Agent) (b : Option Busy) : (s.setSeq ag b).params = s.params := by cases ag <;> rfl
@[simp] theorem State.setSeq_chip (s : State) (ag : Agent) (b : Option Busy) : (s.setSeq ag b).chip = s.chip := by cases ag <;> rfl
@[simp] theorem State.setSeq_trace (s : State) (ag : Agent) (b : Option Busy) : (s.setSeq ag b).trace = s.trace := by cases ag <;> rfl
@[simp] theorem State.setSeq_agenda (s : State) (ag : Agent) (b : Option Busy) : (s.setSeq ag b).agenda = s.agenda := by cases ag <;> rfl
@[simp] theorem State.setSeq_answers (s : State) (ag : Agent) (b : Option Busy) : (s.setSeq ag b).answers = s.answers := by cases ag <;> rfl
@[simp] theorem State.setSeq_requester (s : State) (ag : Agent) (b : Option Busy) : (s.setSeq ag b).requester = s.requester := by cases ag <;> rfl
@[simp] theorem State.setSeq_wireRx (s : State) (ag : Agent) (b : Option Busy) : (s.setSeq ag b).wireRx = s.wireRx := by cases ag <;> rfl
@[simp] theorem State.setSeq_free (s : State) (ag : Agent) (b : Option Busy) : (s.setSeq ag b).free = s.free := by cases ag <;> rfl
@[simp] theorem State.setSeq_irq_hostSeq (s : State) (b : Option Busy) : (s.setSeq .irq b).hostSeq = s.hostSeq := rfl
@[simp] theorem State.setSeq_irq_irqSeq (s : State) (b : Option Busy) : (s.setSeq .irq b).irqSeq = b := rfl
@[simp] theorem State.setSeq_host_irqSeq (s : State) (n : Nat) (b : Option Busy) :
    (s.setSeq (.host n) b).irqSeq = s.irqSeq := rfl

/-- An update that does not touch the sequencers leaves `seq` of every agent alone. -/
theorem State.seqOf_congr {s t : State} (h : t.hostSeq = s.hostSeq) (i : t.irqSeq = s.irqSeq) (ag : Agent) :
    t.seqOf ag = s.seqOf ag := by
  cases ag <;> simp [State.seqOf, h, i]

@[simp] theorem State.emit_seqOf (s : State) (e : Event) (ag : Agent) : (s.emit e).seqOf ag = s.seqOf ag :=
  State.seqOf_congr rfl rfl ag
@[simp] theorem State.respond_seqOf (s : State) (a : Nat) (st : Status) (d : List Byte) (ag : Agent) : (s.respond a st d).seqOf ag = s.seqOf ag :=
  State.seqOf_congr rfl rfl ag
@[simp] theorem State.setLock_seqOf (s : State) (l : Lock) (ag : Agent) : (s.setLock l).seqOf ag = s.seqOf ag :=
  State.seqOf_congr rfl rfl ag
@[simp] theorem State.setChip_seqOf (s : State) (c : Chip) (ag : Agent) : (s.setChip c).seqOf ag = s.seqOf ag :=
  State.seqOf_congr rfl rfl ag
@[simp] theorem State.driveCe_seqOf (s : State) (b : Bool) (ag : Agent) : (s.driveCe b).seqOf ag = s.seqOf ag :=
  State.seqOf_congr rfl rfl ag

/-! ### Get and set of the sequencers -/

theorem lookupSeq_eraseSeq_self (m : List (Nat × Busy)) (a : Nat) : lookupSeq (eraseSeq m a) a = none := by
  induction m with
  | nil => rfl
  | cons e m ih =>
    obtain ⟨k, b⟩ := e
    by_cases h : k = a <;> simp_all [eraseSeq, lookupSeq]

theorem lookupSeq_eraseSeq_ne (m : List (Nat × Busy)) {a c : Nat} (h : c ≠ a) :
    lookupSeq (eraseSeq m a) c = lookupSeq m c := by
  induction m with
  | nil => rfl
  | cons e m ih =>
    obtain ⟨k, b⟩ := e
    by_cases hk : k = a
    · subst hk
      simpa [eraseSeq, lookupSeq, h.symm] using ih
    · by_cases hc : k = c <;> simp_all [eraseSeq, lookupSeq]

theorem lookupSeq_insertSeq_self (m : List (Nat × Busy)) (a : Nat) (b : Busy) (h : lookupSeq m a = none) :
    lookupSeq (insertSeq m a b) a = some b := by
  induction m with
  | nil => simp [insertSeq, lookupSeq]
  | cons e m ih =>
    obtain ⟨k, b'⟩ := e
    by_cases hk : k = a
    · simp [lookupSeq, hk] at h
    · have h' : lookupSeq m a = none := by simpa [lookupSeq, hk] using h
      by_cases hl : a < k
      · simp [insertSeq, lookupSeq, hl]
      · simp only [insertSeq, hl, if_false, lookupSeq, hk]
        exact ih h'

theorem lookupSeq_insertSeq_ne (m : List (Nat × Busy)) {a c : Nat} (b : Busy) (h : c ≠ a) :
    lookupSeq (insertSeq m a b) c = lookupSeq m c := by
  induction m with
  | nil => simp [insertSeq, lookupSeq, h.symm]
  | cons e m ih =>
    obtain ⟨k, b'⟩ := e
    by_cases hl : a < k
    · simp [insertSeq, lookupSeq, hl, h.symm]
    · simp [insertSeq, lookupSeq, hl, ih]

/-- `seq[ag]` after `seq[ag] <- b`. -/
@[simp] theorem State.seqOf_setSeq_self (s : State) (ag : Agent) (b : Option Busy) : (s.setSeq ag b).seqOf ag = b := by
  cases ag with
  | irq => rfl
  | host n =>
    cases b with
    | none => exact lookupSeq_eraseSeq_self _ _
    | some b => exact lookupSeq_insertSeq_self _ _ _ (lookupSeq_eraseSeq_self _ _)

/-- `seq` of another agent after `seq[ag] <- b`. -/
theorem State.seqOf_setSeq_ne (s : State) {ag ag' : Agent} (b : Option Busy) (h : ag' ≠ ag) :
    (s.setSeq ag b).seqOf ag' = s.seqOf ag' := by
  cases ag with
  | irq =>
    cases ag' with
    | irq => exact absurd rfl h
    | host n => rfl
  | host n =>
    cases ag' with
    | irq => rfl
    | host m =>
      have hm : m ≠ n := fun e => h (by rw [e])
      cases b with
      | none => exact lookupSeq_eraseSeq_ne _ hm
      | some b => exact (lookupSeq_insertSeq_ne _ b hm).trans (lookupSeq_eraseSeq_ne _ hm)

end Sys2Proof.Machine
end

