-- ==== Sys2Proof/Laws/Ops.lean ====
section
/-! SUPPORT. What each shared operation can do, said once: codec, bus transactions, primitives and the run of an
operation. -/

namespace Sys2Proof.Machine

open Sys2Proof

/-! ### Codec -/

/-- Only the bits of the mask can differ between old and new (40_codec.md R170). -/
theorem Field.put_outside (f : Field) (old val : Byte) : f.put old val &&& ~~~f.mask = old &&& ~~~f.mask := by
  unfold Field.put
  ext i hi
  simp only [BitVec.getElem_and, BitVec.getElem_or, BitVec.getElem_not]
  cases f.mask[i] <;> simp

theorem firstError_cons_none (l : List (Option Status)) : firstError (none :: l) = firstError l := rfl

theorem firstError_cons_some (c : Status) (l : List (Option Status)) : firstError (some c :: l) = some c := rfl

@[simp] theorem errorIf_true (c : Status) : errorIf true c = some c := rfl

@[simp] theorem errorIf_false (c : Status) : errorIf false c = none := rfl

/-! ### Checks (60_exceptions.md R323), each as the rule writes its condition -/

theorem faultedCheck_eq (s : State) : faultedCheck s = if s.faulted = true then some .faulted else none := rfl

theorem uninitializedCheck_eq (s : State) :
    uninitializedCheck s = if s.fsm = .uninitialized then none else some .alreadyInitialized := by
  cases h : s.fsm <;> simp [uninitializedCheck, errorIf, h]

theorem initializedCheck_eq (s : State) :
    initializedCheck s = if s.fsm = .uninitialized then some .notInitialized else none := by
  cases h : s.fsm <;> simp [initializedCheck, errorIf, h]

theorem pipeCheck_eq (p : BitVec 3) : pipeCheck p = if p.toNat > 5 then some .pipeRange else none := by
  simp only [pipeCheck, errorIf, Config.nPipes, decide_eq_true_eq, Nat.succ_le_iff]

theorem payloadSizeCheck_eq (n : Nat) :
    payloadSizeCheck n = if n > 32 then some .payloadSizeRange else none := by
  simp only [payloadSizeCheck, errorIf, Config.payloadMax, decide_eq_true_eq, gt_iff_lt]

theorem channelCheck_eq (n : Nat) : channelCheck n = if n > 127 then some .channelRange else none := by
  simp only [channelCheck, errorIf, Config.chMax, decide_eq_true_eq, gt_iff_lt]

theorem enumCheck_eq (m n : Nat) : enumCheck m n = if n > m then some .enumValue else none := by
  simp [enumCheck, errorIf]

theorem sendLengthCheck_eq (l n : Nat) :
    sendLengthCheck l n = if l = 0 ∨ l > n then some .sendLength else none := by
  simp only [sendLengthCheck, errorIf, decide_eq_true_eq, gt_iff_lt]

theorem addressLengthCheck_eq (p : BitVec 3) (l : Nat) :
    addressLengthCheck p l =
      if p.toNat ≤ 1 then (if 1 ≤ l ∧ l ≤ 5 then none else some .addressLength)
      else (if l = 1 then none else some .addressLength) := by
  by_cases hp : p.toNat ≤ 1
  · by_cases hl : 1 ≤ l ∧ l ≤ 5
    · have hn : ¬(l < 1 ∨ 5 < l) := by omega
      simp only [addressLengthCheck, errorIf, hp, hl, hn, if_true, decide_false, and_self]
      rfl
    · have hn : l < 1 ∨ 5 < l := by omega
      simp only [addressLengthCheck, errorIf, hp, hl, hn, if_true, if_false, decide_true]
  · by_cases hl : l = 1 <;> simp [addressLengthCheck, errorIf, hp, hl]

theorem deviceFrame_eq (p : BitVec 3) (a : List Byte) (l : Nat) :
    deviceFrame p a l = if WellFormed.device p a l = true then none else some .illegalOp := by
  by_cases hp : p = 0 <;> by_cases hl : a.length = l <;>
    simp only [deviceFrame, WellFormed.device, errorIf, bne_iff_ne, ne_eq, hp, hl, not_true, not_false_iff,
      if_true, if_false, decide_true, decide_false, Bool.and_true, Bool.and_false, firstError] <;>
    rfl

theorem pipeFrame_eq (a : List Byte) (l : Nat) :
    pipeFrame a l = if WellFormed.pipeOp a l = true then none else some .illegalOp := by
  by_cases hl : a.length = l <;> simp [pipeFrame, WellFormed.pipeOp, errorIf, hl]

theorem deviceFrameAnyLength_eq (p : BitVec 3) :
    deviceFrameAnyLength p = if p = 0 then none else some .illegalOp := by
  by_cases hp : p = 0 <;> simp [deviceFrameAnyLength, errorIf, hp]

/-! ### Layouts -/

/-- The width of an address as the meanings use it and as well-formedness uses it: one map (10_state.md R50). -/
theorem regWidth_eq (y : Layout) (r : BitVec 5) : regWidth y r = WellFormed.widthOf y r := by
  by_cases h : r = y.regRxAddrP0 ∨ r = y.regRxAddrP0 + 1
  · rw [regWidth, WellFormed.widthOf, if_pos h, if_pos (by simpa [Layout.addr] using h)]
  · obtain ⟨h0, h1⟩ := not_or.mp h
    have h1 : ¬r = y.regRxAddrP0 + 1#5 := h1
    simp [regWidth, WellFormed.widthOf, WellFormed.addresses, Layout.addr, List.range_succ, h0, h1]

/-- The defaults are a layout a chip can have. -/
theorem Layout.wf_default : Layout.default.wf = true := by decide

/-- What a layout's well-formedness says of its opcodes (30_encoding.md R132, R133). -/
theorem Layout.wf_opcodes {y : Layout} (h : y.wf = true) :
    y.opcRRegister &&& 0x1F = 0 ∧ y.opcWRegister &&& 0x1F = 0 ∧ y.opcRRegister ≠ y.opcWRegister ∧
      (y.opcRRxPayload &&& 0xE0 ≠ y.opcRRegister ∧ y.opcRRxPayload &&& 0xE0 ≠ y.opcWRegister) ∧
      (y.opcWTxPayload &&& 0xE0 ≠ y.opcRRegister ∧ y.opcWTxPayload &&& 0xE0 ≠ y.opcWRegister) ∧
      y.opcRRxPayload ≠ y.opcWTxPayload := by
  simp only [Layout.wf, List.all_cons, List.all_nil, Bool.and_eq_true, decide_eq_true_eq] at h
  tauto

/-- The addresses of a layout, by register. -/
theorem WellFormed.addresses_eq (y : Layout) :
    WellFormed.addresses y = [y.addr .config, y.addr .enAa, y.addr .enRxaddr, y.addr .rfCh, y.addr .rfSetup,
      y.addr .status, y.addr (.rxAddr 0), y.addr (.rxAddr 1), y.addr (.rxAddr 2), y.addr (.rxAddr 3),
      y.addr (.rxAddr 4), y.addr (.rxAddr 5), y.addr (.rxPw 0), y.addr (.rxPw 1), y.addr (.rxPw 2),
      y.addr (.rxPw 3), y.addr (.rxPw 4), y.addr (.rxPw 5)] := by
  simp [WellFormed.addresses, Layout.addr, List.range_succ]

@[simp] theorem WellFormed.length_addresses (y : Layout) : (WellFormed.addresses y).length = 18 := by
  simp [WellFormed.addresses]

/-- The address registers of pipes 0 and 1 apart, every register of R50 is one byte wide. -/
theorem regWidth_of_index {y : Layout} (h : y.wf = true) (i : Nat) (hi : i < (WellFormed.addresses y).length)
    (h6 : i ≠ 6) (h7 : i ≠ 7) : regWidth y (WellFormed.addresses y)[i] = 1 := by
  have hn : (WellFormed.addresses y).Nodup := by
    simp only [Layout.wf, Bool.and_eq_true, decide_eq_true_eq] at h
    tauto
  have e6 : (WellFormed.addresses y)[6]'(by simp) = y.regRxAddrP0 := by
    simp [WellFormed.addresses_eq, Layout.addr]
  have e7 : (WellFormed.addresses y)[7]'(by simp) = y.regRxAddrP0 + 1 := by
    simp [WellFormed.addresses_eq, Layout.addr]
  rw [regWidth_eq, WellFormed.widthOf, if_neg, if_pos (List.getElem_mem hi)]
  rintro (e | e)
  · exact h6 ((hn.getElem_inj_iff).mp (e.trans e6.symm))
  · exact h7 ((hn.getElem_inj_iff).mp (e.trans e7.symm))

theorem regWidth_config {y : Layout} (h : y.wf = true) : regWidth y (y.addr .config) = 1 := by
  simpa [WellFormed.addresses_eq] using regWidth_of_index h 0 (by simp)

theorem regWidth_enAa {y : Layout} (h : y.wf = true) : regWidth y (y.addr .enAa) = 1 := by
  simpa [WellFormed.addresses_eq] using regWidth_of_index h 1 (by simp)

theorem regWidth_enRxaddr {y : Layout} (h : y.wf = true) : regWidth y (y.addr .enRxaddr) = 1 := by
  simpa [WellFormed.addresses_eq] using regWidth_of_index h 2 (by simp)

theorem regWidth_rfCh {y : Layout} (h : y.wf = true) : regWidth y (y.addr .rfCh) = 1 := by
  simpa [WellFormed.addresses_eq] using regWidth_of_index h 3 (by simp)

theorem regWidth_rfSetup {y : Layout} (h : y.wf = true) : regWidth y (y.addr .rfSetup) = 1 := by
  simpa [WellFormed.addresses_eq] using regWidth_of_index h 4 (by simp)

theorem regWidth_status {y : Layout} (h : y.wf = true) : regWidth y (y.addr .status) = 1 := by
  simpa [WellFormed.addresses_eq] using regWidth_of_index h 5 (by simp)

/-- A pipe's number, named. -/
theorem pipe_cases : ∀ p : BitVec 3, p.toNat ≤ 5 → p = 0 ∨ p = 1 ∨ p = 2 ∨ p = 3 ∨ p = 4 ∨ p = 5 := by decide

theorem regWidth_rxPw {y : Layout} (h : y.wf = true) {p : BitVec 3} (hp : p.toNat ≤ 5) :
    regWidth y (y.addr (.rxPw p)) = 1 := by
  rcases pipe_cases p hp with rfl | rfl | rfl | rfl | rfl | rfl
  · simpa [WellFormed.addresses_eq] using regWidth_of_index h 12 (by simp)
  · simpa [WellFormed.addresses_eq] using regWidth_of_index h 13 (by simp)
  · simpa [WellFormed.addresses_eq] using regWidth_of_index h 14 (by simp)
  · simpa [WellFormed.addresses_eq] using regWidth_of_index h 15 (by simp)
  · simpa [WellFormed.addresses_eq] using regWidth_of_index h 16 (by simp)
  · simpa [WellFormed.addresses_eq] using regWidth_of_index h 17 (by simp)

/-- The width of a pipe's address register (43_pipe.md R270). -/
theorem regWidth_rxAddr {y : Layout} (h : y.wf = true) {p : BitVec 3} (hp : p.toNat ≤ 5) :
    regWidth y (y.addr (.rxAddr p)) = addrWidth p := by
  rcases pipe_cases p hp with rfl | rfl | rfl | rfl | rfl | rfl
  · simp [regWidth, addrWidth]
  · simp [regWidth, addrWidth]
  · simpa [WellFormed.addresses_eq, addrWidth] using regWidth_of_index h 8 (by simp)
  · simpa [WellFormed.addresses_eq, addrWidth] using regWidth_of_index h 9 (by simp)
  · simpa [WellFormed.addresses_eq, addrWidth] using regWidth_of_index h 10 (by simp)
  · simpa [WellFormed.addresses_eq, addrWidth] using regWidth_of_index h 11 (by simp)

/-! ### Bus transactions -/

/-- Two states with the same block: everything but the chip, the trace, the pending answers and the count of free
values. -/
structure SameBlock (s t : State) : Prop where
  fsm : t.fsm = s.fsm
  packetSize : t.packetSize = s.packetSize
  consumerRegistered : t.consumerRegistered = s.consumerRegistered
  lock : t.lock = s.lock
  irqPending : t.irqPending = s.irqPending
  irqLevel : t.irqLevel = s.irqLevel
  edgeArmed : t.edgeArmed = s.edgeArmed
  ce : t.ce = s.ce
  faulted : t.faulted = s.faulted
  droppedCount : t.droppedCount = s.droppedCount
  hostSeq : t.hostSeq = s.hostSeq
  irqSeq : t.irqSeq = s.irqSeq
  params : t.params = s.params
  agenda : t.agenda = s.agenda
  requester : t.requester = s.requester
  wireRx : t.wireRx = s.wireRx

/-- A state that differs in nothing else is the same block. -/
theorem SameBlock.of_eq {s t : State}
    (h : t = { s with chip := t.chip, trace := t.trace, answers := t.answers, free := t.free }) : SameBlock s t := by
  rw [h]
  exact ⟨rfl, rfl, rfl, rfl, rfl, rfl, rfl, rfl, rfl, rfl, rfl, rfl, rfl, rfl, rfl, rfl⟩

theorem length_freeBytes (c n : Nat) : (freeBytes c n).length = n := by
  induction n generalizing c with
  | zero => rfl
  | succ n ih => simp [freeBytes, ih]

/-- A completed transaction returns exactly the bytes asked for (20_memory.md R85). -/
theorem length_fitRx (n : Nat) (rx : List Byte) (c : Nat) : (fitRx n rx c).length = n := by
  simp only [fitRx, List.length_append, List.length_take, length_freeBytes]
  omega

/-- Bytes of the length asked for are returned as they are. -/
theorem fitRx_of_length {n : Nat} {rx : List Byte} (c : Nat) (h : rx.length = n) : fitRx n rx c = rx := by
  subst h
  simp [fitRx, freeBytes]

/-- The reference chip's answer changes the chip and takes free values; nothing else. -/
theorem chipAnswer_eq (tx : List Byte) (s : State) :
    (chipAnswer tx s).2 = { s with chip := (chipAnswer tx s).2.chip, free := (chipAnswer tx s).2.free } := by
  unfold chipAnswer
  split <;> (try split) <;> rfl

/-- What becomes of a frame that completes: the chip, the pending answers and the count of free values may change, and
the bytes asked for are returned. -/
theorem busOutcome_completed {tx : List Byte} {n : Nat} {s t : State} {rx : List Byte}
    (h : busOutcome tx n s = .completed rx t) :
    t = { s with chip := t.chip, answers := t.answers, free := t.free } ∧ rx.length = n := by
  have ref : ∀ u : State, u = { s with answers := u.answers } → referenceTxn tx n u = .completed rx t →
      t = { s with chip := t.chip, answers := t.answers, free := t.free } ∧ rx.length = n := by
    intro u hu hr
    rw [referenceTxn, completeTxn, chipAnswer_eq, TxnOut.completed.injEq] at hr
    obtain ⟨rfl, rfl⟩ := hr
    exact ⟨by rw [hu], length_fitRx _ _ _⟩
  unfold busOutcome at h
  split at h
  · exact ref s rfl h
  · exact ref _ rfl h
  · rw [completeTxn, TxnOut.completed.injEq] at h
    obtain ⟨rfl, rfl⟩ := h
    exact ⟨rfl, length_fitRx _ _ _⟩
  · cases h
  · cases h

/-- A frame that fails uses up its answer and does nothing else (60_exceptions.md R313). -/
theorem busOutcome_failed {tx : List Byte} {n : Nat} {s t : State} (h : busOutcome tx n s = .failed t) :
    t = { s with answers := t.answers } := by
  unfold busOutcome at h
  split at h <;> simp [referenceTxn, completeTxn] at h
  subst h
  rfl

/-- So does one that never completes (R315). -/
theorem busOutcome_hung {tx : List Byte} {n : Nat} {s t : State} (h : busOutcome tx n s = .hung t) :
    t = { s with answers := t.answers } := by
  unfold busOutcome at h
  split at h <;> simp [referenceTxn, completeTxn] at h
  subst h
  rfl

/-- A transaction that completes is a frame that completes, with its event. -/
theorem txn_eq_completed {tx : List Byte} {n : Nat} {s t : State} {rx : List Byte} :
    txn tx n s = .completed rx t ↔ ∃ u, busOutcome tx n s = .completed rx u ∧ t = u.emit (.txn tx n rx) := by
  unfold txn
  cases busOutcome tx n s <;> simp [TxnOut.record]
  rintro rfl
  exact eq_comm

theorem txn_eq_failed {tx : List Byte} {n : Nat} {s t : State} :
    txn tx n s = .failed t ↔ busOutcome tx n s = .failed t := by
  unfold txn
  cases busOutcome tx n s <;> simp [TxnOut.record]

theorem txn_eq_hung {tx : List Byte} {n : Nat} {s t : State} :
    txn tx n s = .hung t ↔ busOutcome tx n s = .hung t := by
  unfold txn
  cases busOutcome tx n s <;> simp [TxnOut.record]

/-- What a completed transaction does to the block: nothing but the event; it returns the bytes asked for. -/
theorem txn_completed {tx : List Byte} {n : Nat} {s t : State} {rx : List Byte}
    (h : txn tx n s = .completed rx t) :
    SameBlock s t ∧ t.trace = s.trace ++ [.txn tx n rx] ∧ rx.length = n := by
  obtain ⟨u, hu, rfl⟩ := txn_eq_completed.mp h
  obtain ⟨hs, hn⟩ := busOutcome_completed hu
  refine ⟨SameBlock.of_eq ?_, ?_, hn⟩ <;> rw [hs] <;> rfl

/-- A failed transaction leaves everything but the pending answers as it was (60_exceptions.md R313). -/
theorem txn_failed {tx : List Byte} {n : Nat} {s t : State} (h : txn tx n s = .failed t) :
    t = { s with answers := t.answers } := busOutcome_failed (txn_eq_failed.mp h)

/-- So does a transaction that hangs (R315). -/
theorem txn_hung {tx : List Byte} {n : Nat} {s t : State} (h : txn tx n s = .hung t) :
    t = { s with answers := t.answers } := busOutcome_hung (txn_eq_hung.mp h)

/-! ### The run of an operation -/

@[simp] theorem run_nil (ag : Agent) (op : Op) (k : Nat) (l : Locals) (s : State) : run ag op k [] l s = s := rfl

theorem run_done {ag : Agent} {op : Op} {k : Nat} {p : Prim} {ps : List Prim} {l l' : Locals} {s s' : State}
    (h : execPrim ag p l s = .done l' s') : run ag op k (p :: ps) l s = run ag op (k + 1) ps l' s' := by
  simp [run, h]

theorem run_raise {ag : Agent} {op : Op} {k : Nat} {p : Prim} {ps : List Prim} {l : Locals} {s s' : State}
    {c : Status} (h : execPrim ag p l s = .raise c s') :
    run ag op k (p :: ps) l s = finishRaise ag op c s' := by
  simp [run, h]

theorem run_wait {ag : Agent} {op : Op} {k : Nat} {p : Prim} {ps : List Prim} {l : Locals} {s : State}
    (h : execPrim ag p l s = .wait) : run ag op k (p :: ps) l s = s.setSeq ag (some ⟨op, k, l, .main⟩) := by
  simp [run, h]

theorem run_hung {ag : Agent} {op : Op} {k : Nat} {p : Prim} {ps : List Prim} {l : Locals} {s s' : State}
    (h : execPrim ag p l s = .hung s') :
    run ag op k (p :: ps) l s = s'.setSeq ag (some ⟨op, k, l, .hung⟩) := by
  simp [run, h]

/-- Only a `Deliver` hands a packet over; its event is all it does. -/
theorem execPrim_handedOver {ag : Agent} {p : Prim} {l l' : Locals} {s s' : State}
    (h : execPrim ag p l s = .handedOver l' s') :
    p = .deliverOrDrop ∧ l.deliver = true ∧ l' = l ∧ s' = s.emit (.deliver l.bytes) := by
  have hb : ∀ tx n k, busPrim tx n k s ≠ .handedOver l' s' := by
    intro tx n k hc
    unfold busPrim raiseBusError at hc
    split at hc <;> cases hc
  cases p
  case deliverOrDrop =>
    simp only [execPrim] at h
    split at h
    · cases h; exact ⟨rfl, ‹_›, rfl, rfl⟩
    · cases h
  all_goals simp only [execPrim] at h
  all_goals first
    | exact absurd h (hb _ _ _)
    | (split at h <;> cases h)
    | cases h

/-- Only `Acquire()` waits. -/
theorem execPrim_wait {ag : Agent} {p : Prim} {l : Locals} {s : State} (h : execPrim ag p l s = .wait) :
    p = .acquire ∧ s.lock ≠ .free := by
  have hb : ∀ tx n k, busPrim tx n k s ≠ .wait := by
    intro tx n k hc
    unfold busPrim raiseBusError at hc
    split at hc <;> cases hc
  cases p
  case acquire =>
    simp only [execPrim] at h
    split at h
    · cases h
    · exact ⟨rfl, ‹_›⟩
  all_goals simp only [execPrim] at h
  all_goals first
    | exact absurd h (hb _ _ _)
    | (split at h <;> cases h)
    | cases h

/-- A bus primitive that completes was one completed transaction. -/
theorem busPrim_done {tx : List Byte} {n : Nat} {k : List Byte → Locals} {s s' : State} {l : Locals}
    (h : busPrim tx n k s = .done l s') : ∃ rx, txn tx n s = .completed rx s' ∧ l = k rx := by
  unfold busPrim raiseBusError at h
  split at h
  · next rx t ht => cases h; exact ⟨rx, ht, rfl⟩
  · cases h
  · cases h

/-- A bus primitive that raises was one failed transaction; it faults the block (60_exceptions.md R313). -/
theorem busPrim_raise {tx : List Byte} {n : Nat} {k : List Byte → Locals} {s s' : State} {c : Status}
    (h : busPrim tx n k s = .raise c s') :
    ∃ t, txn tx n s = .failed t ∧ c = .bus ∧ s' = { t with faulted := true } := by
  unfold busPrim raiseBusError at h
  split at h
  · cases h
  · next t ht => cases h; exact ⟨t, ht, rfl, rfl⟩
  · cases h

/-! ### The reference chip's answers -/

/-- A register opcode is its high three bits. -/
theorem opcode_eq_high {b : Byte} (h : b &&& 0x1F = 0) : ∃ k : BitVec 3, b = k ++ (0 : BitVec 5) := by
  refine ⟨b.extractLsb' 5 3, ?_⟩
  revert b
  decide

/-- The command byte of a register command: the opcode in its high bits, the register in its low ones (30_encoding.md
R132, R136). -/
theorem wireByte {b : Byte} (h : b &&& 0x1F = 0) (r : BitVec 5) :
    (b + r.setWidth 8) &&& (0xE0 : Byte) = b ∧ wireReg (b + r.setWidth 8) b = r := by
  obtain ⟨k, rfl⟩ := opcode_eq_high h
  revert k r
  decide

/-- The frame of a register read is read back as one, whatever the register (R136). -/
theorem decodeWire_read {y : Layout} (h : y.wf = true) (r : BitVec 5) :
    decodeWire y (encodeCmd y.opcRRegister (r.setWidth 8) []) = .ok (.rRegister r) := by
  obtain ⟨h1, h2⟩ := wireByte (Layout.wf_opcodes h).1 r
  rw [encodeCmd, decodeWire, if_pos h1, if_pos rfl, h2]

/-- So is the frame of a register write (R136). -/
theorem decodeWire_write {y : Layout} (h : y.wf = true) (r : BitVec 5) (v : List Byte)
    (hv : v.length ≤ Config.payloadMax) :
    decodeWire y (encodeCmd y.opcWRegister (r.setWidth 8) v) = .ok (.wRegister r v) := by
  obtain ⟨-, hw, hne, -⟩ := Layout.wf_opcodes h
  obtain ⟨h1, h2⟩ := wireByte hw r
  rw [encodeCmd, decodeWire, if_neg (by rw [h1]; exact hne.symm), if_pos h1, if_pos hv, h2]

theorem decodeWire_readRx {y : Layout} (h : y.wf = true) :
    decodeWire y (encodeCmd y.opcRRxPayload 0 []) = .ok .rRxPayload := by
  obtain ⟨-, -, -, ⟨h1, h2⟩, -, -⟩ := Layout.wf_opcodes h
  have e : y.opcRRxPayload + 0 = y.opcRRxPayload := by simp
  rw [encodeCmd, e, decodeWire, if_neg h1, if_neg h2, if_pos rfl, if_pos rfl]

theorem decodeWire_writeTx {y : Layout} (h : y.wf = true) (v : List Byte) (hv : v.length ≤ Config.payloadMax) :
    decodeWire y (encodeCmd y.opcWTxPayload 0 v) = .ok (.wTxPayload v) := by
  obtain ⟨-, -, -, -, ⟨h1, h2⟩, h3⟩ := Layout.wf_opcodes h
  have e : y.opcWTxPayload + 0 = y.opcWTxPayload := by simp
  rw [encodeCmd, e, decodeWire, if_neg h1, if_neg h2, if_neg h3.symm, if_pos rfl, if_pos hv]

/-- With no pending answer the reference chip answers. -/
theorem busOutcome_reference {s : State} (h : s.answers = []) (tx : List Byte) (n : Nat) :
    busOutcome tx n s = referenceTxn tx n s := by
  unfold busOutcome
  rw [h]

/-- A completion with the bytes asked for takes no free value. -/
theorem completeTxn_of_length {n : Nat} {rx : List Byte} (s : State) (h : rx.length = n) :
    completeTxn n rx s = .completed rx s := by
  subst h
  simp [completeTxn, fitRx, freeBytes]

/-- A full-width register read the reference chip answers (20_memory.md R108): the register's bytes and no side
effect. -/
theorem busOutcome_read {s : State} (h : s.answers = []) (hy : s.layout.wf = true) (r : BitVec 5) :
    busOutcome (encodeCmd s.layout.opcRRegister (r.setWidth 8) []) (regWidth s.layout r) s =
      .completed (s.chip.readReg s.layout r) s := by
  rw [busOutcome_reference h, referenceTxn, chipAnswer, decodeWire_read hy]
  exact completeTxn_of_length _ (Chip.length_readReg _ _ _)

/-- A register write the reference chip takes (R109, R110). -/
theorem busOutcome_write {s : State} (h : s.answers = []) (hy : s.layout.wf = true) (r : BitVec 5) (v : List Byte)
    (hv : v.length ≤ Config.payloadMax) :
    busOutcome (encodeCmd s.layout.opcWRegister (r.setWidth 8) v) 0 s =
      .completed [] (s.setChip (s.chip.writeReg s.layout r v)) := by
  rw [busOutcome_reference h, referenceTxn, chipAnswer, decodeWire_write hy r v hv]
  exact completeTxn_of_length _ rfl

end Sys2Proof.Machine
end

