-- ==== Sys2Proof/Laws/PerInstr.lean ====
section
/-! SUPPORT. A statement made for every instruction: a legal frame is as long as it says itself
(30_encoding.md R142: a host frame is 2 + L bytes; a wire frame 1 command byte and its payload). -/

namespace Sys2Proof.Laws.FrameLength

open Sys2Proof

/-- What is said of an instruction: a legal host frame has 2 + L bytes, L its byte 1; a legal wire frame at most
33 bytes (20_memory.md R92), whatever the layout. -/
def Statement (i : Instr) : Prop :=
  ∀ y : Layout, i.wellFormed y = true →
    (i.isHost = true → (encode y i).length = 2 + ((encode y i).getD 1 0).toNat) ∧
      (i.isHost = false → (encode y i).length ≤ 33)

theorem host_length (op : BitVec 5) (pipe : BitVec 3) (args : List Byte) (h : args.length ≤ 255) :
    (encodeHost op pipe args).length = 2 + ((encodeHost op pipe args).getD 1 0).toNat := by
  simp only [encodeHost, List.length_cons, List.getD_cons_succ, List.getD_cons_zero, BitVec.toNat_ofNat]
  omega

theorem device_le {p : BitVec 3} {a : List Byte} {l : Nat} (h : WellFormed.device p a l = true) (hl : l ≤ 255) :
    a.length ≤ 255 := by
  simp only [WellFormed.device, Bool.and_eq_true, decide_eq_true_eq] at h
  omega

theorem pipeOp_le {a : List Byte} {l : Nat} (h : WellFormed.pipeOp a l = true) (hl : l ≤ 255) :
    a.length ≤ 255 := by
  simp only [WellFormed.pipeOp, decide_eq_true_eq] at h
  omega

theorem fits_le {a : List Byte} (h : WellFormed.fits a = true) : a.length ≤ 255 := by
  simpa [WellFormed.fits] using h

theorem init (p : BitVec 3) (a : List Byte) : Statement (.init p a) :=
  fun _ h => ⟨fun _ => host_length _ _ _ (device_le h (by decide)), fun e => by simp [Instr.isHost] at e⟩

theorem setChannel (p : BitVec 3) (a : List Byte) : Statement (.setChannel p a) :=
  fun _ h => ⟨fun _ => host_length _ _ _ (device_le h (by decide)), fun e => by simp [Instr.isHost] at e⟩

theorem getChannel (p : BitVec 3) (a : List Byte) : Statement (.getChannel p a) :=
  fun _ h => ⟨fun _ => host_length _ _ _ (device_le h (by decide)), fun e => by simp [Instr.isHost] at e⟩

theorem setOutputPower (p : BitVec 3) (a : List Byte) : Statement (.setOutputPower p a) :=
  fun _ h => ⟨fun _ => host_length _ _ _ (device_le h (by decide)), fun e => by simp [Instr.isHost] at e⟩

theorem getOutputPower (p : BitVec 3) (a : List Byte) : Statement (.getOutputPower p a) :=
  fun _ h => ⟨fun _ => host_length _ _ _ (device_le h (by decide)), fun e => by simp [Instr.isHost] at e⟩

theorem setDataRate (p : BitVec 3) (a : List Byte) : Statement (.setDataRate p a) :=
  fun _ h => ⟨fun _ => host_length _ _ _ (device_le h (by decide)), fun e => by simp [Instr.isHost] at e⟩

theorem getDataRate (p : BitVec 3) (a : List Byte) : Statement (.getDataRate p a) :=
  fun _ h => ⟨fun _ => host_length _ _ _ (device_le h (by decide)), fun e => by simp [Instr.isHost] at e⟩

theorem setPowerMode (p : BitVec 3) (a : List Byte) : Statement (.setPowerMode p a) :=
  fun _ h => ⟨fun _ => host_length _ _ _ (device_le h (by decide)), fun e => by simp [Instr.isHost] at e⟩

theorem getPowerMode (p : BitVec 3) (a : List Byte) : Statement (.getPowerMode p a) :=
  fun _ h => ⟨fun _ => host_length _ _ _ (device_le h (by decide)), fun e => by simp [Instr.isHost] at e⟩

theorem getWorkingMode (p : BitVec 3) (a : List Byte) : Statement (.getWorkingMode p a) :=
  fun _ h => ⟨fun _ => host_length _ _ _ (device_le h (by decide)), fun e => by simp [Instr.isHost] at e⟩

theorem send (p : BitVec 3) (a : List Byte) : Statement (.send p a) :=
  fun _ h => ⟨fun _ => host_length _ _ _ (fits_le (by simp only [Instr.wellFormed, Bool.and_eq_true] at h; exact h.2)), fun e => by simp [Instr.isHost] at e⟩

theorem registerConsumer (p : BitVec 3) (a : List Byte) : Statement (.registerConsumer p a) :=
  fun _ h => ⟨fun _ => host_length _ _ _ (device_le h (by decide)), fun e => by simp [Instr.isHost] at e⟩

theorem pipeGetAddress (p : BitVec 3) (a : List Byte) : Statement (.pipeGetAddress p a) :=
  fun _ h => ⟨fun _ => host_length _ _ _ (pipeOp_le h (by decide)), fun e => by simp [Instr.isHost] at e⟩

theorem pipeSetAddress (p : BitVec 3) (a : List Byte) : Statement (.pipeSetAddress p a) :=
  fun _ h => ⟨fun _ => host_length _ _ _ (fits_le h), fun e => by simp [Instr.isHost] at e⟩

theorem pipeGetAutoack (p : BitVec 3) (a : List Byte) : Statement (.pipeGetAutoack p a) :=
  fun _ h => ⟨fun _ => host_length _ _ _ (pipeOp_le h (by decide)), fun e => by simp [Instr.isHost] at e⟩

theorem pipeSetAutoack (p : BitVec 3) (a : List Byte) : Statement (.pipeSetAutoack p a) :=
  fun _ h => ⟨fun _ => host_length _ _ _ (pipeOp_le h (by decide)), fun e => by simp [Instr.isHost] at e⟩

theorem pipeGetPayloadSize (p : BitVec 3) (a : List Byte) : Statement (.pipeGetPayloadSize p a) :=
  fun _ h => ⟨fun _ => host_length _ _ _ (pipeOp_le h (by decide)), fun e => by simp [Instr.isHost] at e⟩

theorem pipeSetPayloadSize (p : BitVec 3) (a : List Byte) : Statement (.pipeSetPayloadSize p a) :=
  fun _ h => ⟨fun _ => host_length _ _ _ (pipeOp_le h (by decide)), fun e => by simp [Instr.isHost] at e⟩

theorem pipeGetEnabled (p : BitVec 3) (a : List Byte) : Statement (.pipeGetEnabled p a) :=
  fun _ h => ⟨fun _ => host_length _ _ _ (pipeOp_le h (by decide)), fun e => by simp [Instr.isHost] at e⟩

theorem pipeSetEnabled (p : BitVec 3) (a : List Byte) : Statement (.pipeSetEnabled p a) :=
  fun _ h => ⟨fun _ => host_length _ _ _ (pipeOp_le h (by decide)), fun e => by simp [Instr.isHost] at e⟩

theorem reservedOp00 (p : BitVec 3) (a : List Byte) : Statement (.reservedOp00 p a) :=
  fun _ h => ⟨fun _ => host_length _ _ _ (fits_le h), fun e => by simp [Instr.isHost] at e⟩

theorem reservedOp0D (p : BitVec 3) (a : List Byte) : Statement (.reservedOp0D p a) :=
  fun _ h => ⟨fun _ => host_length _ _ _ (fits_le h), fun e => by simp [Instr.isHost] at e⟩

theorem reservedOp0E (p : BitVec 3) (a : List Byte) : Statement (.reservedOp0E p a) :=
  fun _ h => ⟨fun _ => host_length _ _ _ (fits_le h), fun e => by simp [Instr.isHost] at e⟩

theorem reservedOp0F (p : BitVec 3) (a : List Byte) : Statement (.reservedOp0F p a) :=
  fun _ h => ⟨fun _ => host_length _ _ _ (fits_le h), fun e => by simp [Instr.isHost] at e⟩

theorem reservedOp18 (p : BitVec 3) (a : List Byte) : Statement (.reservedOp18 p a) :=
  fun _ h => ⟨fun _ => host_length _ _ _ (fits_le h), fun e => by simp [Instr.isHost] at e⟩

theorem reservedOp19 (p : BitVec 3) (a : List Byte) : Statement (.reservedOp19 p a) :=
  fun _ h => ⟨fun _ => host_length _ _ _ (fits_le h), fun e => by simp [Instr.isHost] at e⟩

theorem reservedOp1A (p : BitVec 3) (a : List Byte) : Statement (.reservedOp1A p a) :=
  fun _ h => ⟨fun _ => host_length _ _ _ (fits_le h), fun e => by simp [Instr.isHost] at e⟩

theorem reservedOp1B (p : BitVec 3) (a : List Byte) : Statement (.reservedOp1B p a) :=
  fun _ h => ⟨fun _ => host_length _ _ _ (fits_le h), fun e => by simp [Instr.isHost] at e⟩

theorem reservedOp1C (p : BitVec 3) (a : List Byte) : Statement (.reservedOp1C p a) :=
  fun _ h => ⟨fun _ => host_length _ _ _ (fits_le h), fun e => by simp [Instr.isHost] at e⟩

theorem reservedOp1D (p : BitVec 3) (a : List Byte) : Statement (.reservedOp1D p a) :=
  fun _ h => ⟨fun _ => host_length _ _ _ (fits_le h), fun e => by simp [Instr.isHost] at e⟩

theorem reservedOp1E (p : BitVec 3) (a : List Byte) : Statement (.reservedOp1E p a) :=
  fun _ h => ⟨fun _ => host_length _ _ _ (fits_le h), fun e => by simp [Instr.isHost] at e⟩

theorem reservedOp1F (p : BitVec 3) (a : List Byte) : Statement (.reservedOp1F p a) :=
  fun _ h => ⟨fun _ => host_length _ _ _ (fits_le h), fun e => by simp [Instr.isHost] at e⟩

theorem rRegister (r : BitVec 5) : Statement (.rRegister r) :=
  fun _ _ => ⟨fun e => by simp [Instr.isHost] at e, fun _ => by simp [encode, encodeCmd]⟩

theorem widthOf_le (y : Layout) (r : BitVec 5) : WellFormed.widthOf y r ≤ 5 := by
  unfold WellFormed.widthOf
  split
  · omega
  · split <;> omega

theorem wRegister (r : BitVec 5) (d : List Byte) : Statement (.wRegister r d) := by
  refine fun y h => ⟨fun e => by simp [Instr.isHost] at e, fun _ => ?_⟩
  simp only [Instr.wellFormed, Bool.and_eq_true, decide_eq_true_eq] at h
  have := widthOf_le y r
  simp only [encode, encodeCmd, List.length_cons]
  omega

theorem rRxPayload : Statement .rRxPayload :=
  fun _ _ => ⟨fun e => by simp [Instr.isHost] at e, fun _ => by simp [encode, encodeCmd]⟩

theorem wTxPayload (d : List Byte) : Statement (.wTxPayload d) := by
  refine fun y h => ⟨fun e => by simp [Instr.isHost] at e, fun _ => ?_⟩
  simp only [Instr.wellFormed, Bool.and_eq_true, decide_eq_true_eq] at h
  simp only [encode, encodeCmd, List.length_cons]
  omega

end Sys2Proof.Laws.FrameLength
end

