-- ==== Sys2Proof/Laws/Port.lean ====
section
/-! SUPPORT. What the host request port does with a frame it takes, and with one it does not. -/

namespace Sys2Proof.Machine

open Sys2Proof

theorem State.takesFrom_iff (s : State) (a : Nat) :
    s.takesFrom a = true ↔ a < s.params.nHostAgents ∧ s.seqOf (.host a) = none := by
  simp [State.takesFrom]

/-- A frame that is taken and decodes runs. -/
theorem runRequest_of_decodes {s : State} {a : Nat} {frame : List Byte} {i : Instr} (h : s.takesFrom a = true)
    (hd : decodeHost frame = .ok i) : runRequest a frame s = exec i { s with requester := a } := by
  simp [runRequest, h, hd]

theorem runRequest_of_not_taken {s : State} {a : Nat} (h : s.takesFrom a = false) (frame : List Byte) :
    runRequest a frame s = .next s := by
  simp [runRequest, h]

theorem runIssue_of_takes {s : State} {a : Nat} (h : s.takesFrom a = true) (frame : List Byte) :
    runIssue a frame s = issue a frame s := by
  simp [runIssue, h]

theorem runIssue_of_not_taken {s : State} {a : Nat} (h : s.takesFrom a = false) (frame : List Byte) :
    runIssue a frame s = s := by
  simp [runIssue, h]

end Sys2Proof.Machine
end

