-- ==== Sys2Proof/Laws/Run.lean ====
section
/-! SUPPORT. The run of an operation, one lemma per primitive: what `run` does at it and where it goes on. A proof
about an operation rewrites with these and never unfolds `run` or `execPrim`. -/

namespace Sys2Proof.Machine

open Sys2Proof

variable {ag : Agent} {op : Op} {k : Nat} {ps : List Prim} {l : Locals} {s : State}

theorem run_acquire_free (h : s.lock = .free) :
    run ag op k (.acquire :: ps) l s = run ag op (k + 1) ps l (s.setLock (.held ag)) := by
  simp [run, execPrim, h]

theorem run_acquire_held {b : Agent} (h : s.lock = .held b) :
    run ag op k (.acquire :: ps) l s = s.setSeq ag (some ⟨op, k, l, .main⟩) := by
  simp [run, execPrim, h]

theorem run_release : run ag op k (.release :: ps) l s = run ag op (k + 1) ps l (s.setLock .free) := rfl

theorem run_checkFaulted (h : s.faulted = false) :
    run ag op k (.checkFaulted :: ps) l s = run ag op (k + 1) ps l s := by
  simp [run, execPrim, h]

theorem run_checkFaulted_raise (h : s.faulted = true) :
    run ag op k (.checkFaulted :: ps) l s = finishRaise ag op .faulted s := by
  simp [run, execPrim, h]

theorem run_checkUninitialized (h : s.fsm = .uninitialized) :
    run ag op k (.checkUninitialized :: ps) l s = run ag op (k + 1) ps l s := by
  simp [run, execPrim, h]

theorem run_checkUninitialized_raise (h : s.fsm ≠ .uninitialized) :
    run ag op k (.checkUninitialized :: ps) l s = finishRaise ag op .alreadyInitialized s := by
  simp [run, execPrim, h]

theorem run_checkReceive (h : s.faulted = false) (hr : s.fsm = .configuredRx) :
    run ag op k (.checkReceive :: ps) l s = run ag op (k + 1) ps l s := by
  simp [run, execPrim, h, hr]

theorem run_checkReceive_raise (h : s.faulted = true ∨ s.fsm ≠ .configuredRx) :
    run ag op k (.checkReceive :: ps) l s = finishRaise ag op .faulted s := by
  simp [run, execPrim, h]

theorem run_takeEdge :
    run ag op k (.takeEdge :: ps) l s = run ag op (k + 1) ps l { s with irqPending := s.irqPending - 1 } := rfl

theorem run_setPacketSize (n : Nat) :
    run ag op k (.setPacketSize n :: ps) l s = run ag op (k + 1) ps l { s with packetSize := n } := rfl

theorem run_setCe (b : Bool) : run ag op k (.setCe b :: ps) l s = run ag op (k + 1) ps l (s.driveCe b) := rfl

theorem run_ceAfterSend :
    run ag op k (.ceAfterSend :: ps) l s =
      run ag op (k + 1) ps l (if s.params.ceAfterSendHigh then s.driveCe true else s) := rfl

theorem run_delay (d : DelayName) :
    run ag op k (.delay d :: ps) l s = run ag op (k + 1) ps l (s.doDelay d) := rfl

theorem run_setFsm (f : Fsm) :
    run ag op k (.setFsm f :: ps) l s = run ag op (k + 1) ps l { s with fsm := f } := rfl

theorem run_arm : run ag op k (.arm :: ps) l s = run ag op (k + 1) ps l { s with edgeArmed := true } := rfl

theorem run_registerConsumer :
    run ag op k (.registerConsumer :: ps) l s =
      run ag op (k + 1) ps l { s with consumerRegistered := true } := rfl

theorem run_route :
    run ag op k (.route :: ps) l s =
      run ag op (k + 1) ps { l with deliver := s.consumerRegistered }
        (if s.consumerRegistered then s else { s with droppedCount := s.droppedCount + 1 }) := rfl

theorem run_deliverOrDrop :
    run ag op k (.deliverOrDrop :: ps) l s =
      run ag op (k + 1) ps l (s.emit (if l.deliver then .deliver l.bytes else .drop l.bytes)) := by
  cases h : l.deliver <;> simp [run, execPrim, h]

theorem run_respond_host {n : Nat} (r : Ret) :
    run (.host n) op k (.respond r :: ps) l s = run (.host n) op (k + 1) ps l (s.respond n .ok (r.data s.layout l)) := rfl

/-- What the run does with the outcome of a transaction: it goes on with the bytes, it aborts with the block
faulted (60_exceptions.md R313), or it stays there (R315). -/
def afterTxn (ag : Agent) (op : Op) (k : Nat) (ps : List Prim) (l : Locals) (f : List Byte → Locals) :
    TxnOut → State
  | .completed rx t => run ag op (k + 1) ps (f rx) t
  | .failed t => finishRaise ag op .bus { t with faulted := true }
  | .hung t => t.setSeq ag (some ⟨op, k, l, .hung⟩)

@[simp] theorem afterTxn_completed {f : List Byte → Locals} (rx : List Byte) (t : State) :
    afterTxn ag op k ps l f (.completed rx t) = run ag op (k + 1) ps (f rx) t := rfl

@[simp] theorem afterTxn_failed {f : List Byte → Locals} (t : State) :
    afterTxn ag op k ps l f (.failed t) = finishRaise ag op .bus { t with faulted := true } := rfl

@[simp] theorem afterTxn_hung {f : List Byte → Locals} (t : State) :
    afterTxn ag op k ps l f (.hung t) = t.setSeq ag (some ⟨op, k, l, .hung⟩) := rfl

/-- A primitive that is one bus transaction. -/
theorem run_busPrim {p : Prim} {tx : List Byte} {n : Nat} {f : List Byte → Locals}
    (h : execPrim ag p l s = busPrim tx n f s) :
    run ag op k (p :: ps) l s = afterTxn ag op k ps l f (txn tx n s) := by
  rw [run, h]
  cases hx : txn tx n s <;> simp [busPrim, hx, raiseBusError]

theorem run_memRead (reg : Reg) (n : Nat) :
    run ag op k (.memRead reg n :: ps) l s =
      afterTxn ag op k ps l (fun rx => { l with bytes := rx }) (txn (s.readFrame reg) n s) :=
  run_busPrim rfl

theorem run_writeField (reg : Reg) (f : FieldName) (v : Byte) :
    run ag op k (.writeField reg f v :: ps) l s =
      afterTxn ag op k ps l (fun _ => l)
        (txn (s.writeFrame reg [(s.layout.field f).put (l.bytes.headD 0) v]) 0 s) :=
  run_busPrim rfl

theorem run_writeAddr (reg : Reg) (w : Nat) (a : List Byte) :
    run ag op k (.writeAddr reg w a :: ps) l s =
      afterTxn ag op k ps l (fun _ => l) (txn (s.writeFrame reg (addrMerge w a l.bytes)) 0 s) :=
  run_busPrim rfl

theorem run_clearRxReady :
    run ag op k (.clearRxReady :: ps) l s =
      afterTxn ag op k ps l (fun _ => l) (txn (s.writeFrame .status [(s.layout.field .rxReady).mask]) 0 s) :=
  run_busPrim rfl

theorem run_writeTx (d : List Byte) :
    run ag op k (.writeTx d :: ps) l s =
      afterTxn ag op k ps l (fun _ => l) (txn (encodeCmd s.layout.opcWTxPayload 0 d) 0 s) :=
  run_busPrim rfl

theorem run_readRx :
    run ag op k (.readRx :: ps) l s =
      afterTxn ag op k ps l (fun rx => { l with bytes := rx })
        (txn (encodeCmd s.layout.opcRRxPayload 0 []) s.packetSize s) :=
  run_busPrim rfl

/-- A host operation on a free block that is not faulted runs its body with the exclusion held
(41_device_config.md R190). -/
theorem run_shell {body : List Prim} {ret : Ret} (hl : s.lock = .free) (hf : s.faulted = false) :
    run ag op 0 (shell body ret) l s =
      run ag op 2 (body ++ [.release, .respond ret]) l (s.setLock (.held ag)) := by
  have e : shell body ret = .acquire :: .checkFaulted :: (body ++ [.release, .respond ret]) := rfl
  rw [e, run_acquire_free hl, run_checkFaulted (by simpa using hf)]

/-- One that finds the exclusion held waits at `Acquire()`. -/
theorem run_shell_wait {body : List Prim} {ret : Ret} {b : Agent} (hl : s.lock = .held b) :
    run ag op 0 (shell body ret) l s = s.setSeq ag (some ⟨op, 0, l, .main⟩) := run_acquire_held hl

/-! ### The meanings, each as the run of its program -/

theorem hostOp_eq (i : Instr) (c : Option Status) (body : List Prim) (ret : Ret) (s : State) :
    hostOp i c body ret s = .next (match c with
      | some c => s.respond s.requester c []
      | none => run (.host s.requester) (.instr i) 0 (shell body ret) Locals.start s) := by
  cases c <;> rfl

/-- Every host instruction answers what validation raised, or runs its program (41_device_config.md R190). -/
theorem exec_host {i : Instr} (h : i.isHost = true) (s : State) :
    exec i s = .next (match checkOf i s with
      | some c => s.respond s.requester c []
      | none => run (.host s.requester) (.instr i) 0 (instrProgram i) Locals.start s) := by
  cases i <;> first
    | exact hostOp_eq _ _ _ _ _
    | rfl
    | cases h

/-- What a wire command leaves of the block: everything. Only the chip, the environment's answers, the count of free
values and the bytes the chip returned may change (log entry 13). -/
theorem wireOp_eq (tx : List Byte) (n : Nat) (s : State) :
    ∃ t, wireOp tx n s = .next t ∧
      t = { s with chip := t.chip, answers := t.answers, free := t.free, wireRx := t.wireRx } := by
  unfold wireOp
  cases h : busOutcome tx n s with
  | completed rx u => exact ⟨_, rfl, by rw [(busOutcome_completed h).1]⟩
  | failed u => exact ⟨_, rfl, by rw [busOutcome_failed h]⟩
  | hung u => exact ⟨_, rfl, by rw [busOutcome_hung h]⟩

theorem exec_wire {i : Instr} (h : i.isHost = false) (s : State) :
    ∃ t, exec i s = .next t ∧
      t = { s with chip := t.chip, answers := t.answers, free := t.free, wireRx := t.wireRx } := by
  cases i <;> first
    | exact wireOp_eq _ _ _
    | cases h

end Sys2Proof.Machine
end

