-- ==== Sys2Proof/Laws/Seq.lean ====
section
/-! SUPPORT. The laws of setting an agent's sequencer twice, and of setting an Idle one Idle. -/

namespace Sys2Proof.Machine

open Sys2Proof

theorem eraseSeq_insert (m : List (Nat × Busy)) (n : Nat) (b : Busy) :
    eraseSeq (insertSeq m n b) n = eraseSeq m n := by
  induction m with
  | nil => simp [insertSeq, eraseSeq]
  | cons c m ih =>
    obtain ⟨k, b'⟩ := c
    by_cases hk : n < k
    · simp [insertSeq, eraseSeq, hk]
    · have e : insertSeq ((k, b') :: m) n b = (k, b') :: insertSeq m n b := by simp [insertSeq, hk]
      rw [e]
      unfold eraseSeq at ih ⊢
      rw [List.filter_cons, List.filter_cons, ih]

theorem eraseSeq_erase (m : List (Nat × Busy)) (n : Nat) : eraseSeq (eraseSeq m n) n = eraseSeq m n := by
  simp [eraseSeq]

theorem eraseSeq_of_idle {m : List (Nat × Busy)} {n : Nat} (h : lookupSeq m n = none) : eraseSeq m n = m := by
  induction m with
  | nil => rfl
  | cons c m ih =>
    obtain ⟨k, b⟩ := c
    by_cases hk : k = n
    · simp [lookupSeq, hk] at h
    · rw [lookupSeq, if_neg hk] at h
      have := ih h
      unfold eraseSeq at this ⊢
      rw [List.filter_cons, if_pos (by simpa using hk), this]

/-! ### On the state -/

/-- The last sequencer set stays. -/
@[simp] theorem State.setSeq_setSeq (s : State) (ag : Agent) (b c : Option Busy) :
    (s.setSeq ag b).setSeq ag c = s.setSeq ag c := by
  cases ag with
  | irq => rfl
  | host n => cases b <;> cases c <;> simp [State.setSeq, eraseSeq_insert, eraseSeq_erase]

/-- An Idle agent made Idle changes nothing. -/
theorem State.setSeq_none_of_idle {s : State} {ag : Agent} (h : s.seqOf ag = none) : s.setSeq ag none = s := by
  cases ag with
  | irq =>
    have h' : s.irqSeq = none := h
    simp only [State.setSeq, ← h']
  | host n => simp only [State.setSeq, eraseSeq_of_idle (show lookupSeq s.hostSeq n = none from h)]

end Sys2Proof.Machine
end

