-- ==== Sys2Proof/Tests/Slice0.lean ====
section
/-! SUPPORT. Tests. Expected results are the spec's: the vectors V1 to V104, the examples E1 to E12 and the programs
of 95_test_vectors.md, and words written out from the maps of 30_encoding.md R125 and R133. Then one witness for each
statement of Certificates/Slice0/Obligations.lean that has hypotheses. -/

namespace Sys2Proof.Tests

open Sys2Proof Sys2Proof.Machine Sys2Proof.Claims

/-! ### WellFormed: one ill-formed term for each check -/

theorem test_wf_device_pipe_field : (Instr.getChannel 1 []).wellFormed Layout.default = false := by decide
theorem test_wf_device_length : (Instr.setChannel 0 [0x28, 0x00]).wellFormed Layout.default = false := by decide
theorem test_wf_init_length : (Instr.init 0 [0x0D, 0x28, 0x03]).wellFormed Layout.default = false := by decide
theorem test_wf_pipe_length : (Instr.pipeGetAutoack 0 [0x00]).wellFormed Layout.default = false := by decide
theorem test_wf_send_pipe_field : (Instr.send 1 [0x55]).wellFormed Layout.default = false := by decide
theorem test_wf_send_too_long : (Instr.send 0 (List.replicate 256 0x00)).wellFormed Layout.default = false := by
  simp only [Instr.wellFormed, WellFormed.fits, List.length_replicate]; decide
theorem test_wf_reserved_too_long : (Instr.reservedOp1F 0 (List.replicate 256 0x00)).wellFormed Layout.default = false := by
  simp only [Instr.wellFormed, WellFormed.fits, List.length_replicate]; decide
theorem test_wf_no_register : (Instr.rRegister 0x03).wellFormed Layout.default = false := by decide
theorem test_wf_register_width : (Instr.wRegister 0x0A [0x01]).wellFormed Layout.default = false := by decide
theorem test_wf_tx_empty : (Instr.wTxPayload []).wellFormed Layout.default = false := by decide
theorem test_wf_tx_too_long : (Instr.wTxPayload (List.replicate 33 0x00)).wellFormed Layout.default = false := by decide
theorem test_wf_layout_default : Layout.default.wf = true := by decide
theorem test_wf_layout_opcode_bits : { Layout.default with opcWRegister := 0x21 }.wf = false := by decide
theorem test_wf_layout_opcodes_equal : { Layout.default with opcWRegister := 0x00 }.wf = false := by decide
theorem test_wf_layout_payload_opcode : { Layout.default with opcRRxPayload := 0x3F }.wf = false := by decide
theorem test_wf_layout_payload_equal : { Layout.default with opcWTxPayload := 0x61 }.wf = false := by decide
theorem test_wf_layout_address_twice : { Layout.default with regRfCh := 0x0F }.wf = false := by decide
theorem test_wf_layout_address_beyond : { Layout.default with regRxPwP0 := 0x1C }.wf = false := by decide
theorem test_wf_layout_fields :
    { Layout.default with workingModeBit := 1 }.wf = false ∧ { Layout.default with dataRateBit := 2 }.wf = false ∧
    { Layout.default with enabledBits := [0, 1, 2, 3, 4] }.wf = false ∧
    { Layout.default with rxReadyBit := 5 }.wf = false ∧
    { Layout.default with channelField := ⟨0x3F, 0⟩ }.wf = false ∧
    { Layout.default with payloadSizeField := ⟨0x1F, 0⟩ }.wf = false := by decide
theorem test_wf_pipe_six_is_legal : (Instr.pipeGetEnabled 6 []).wellFormed Layout.default = true := by decide

/-! ### Decoding: a word for every constructor -/

theorem test_decode_device :
    decodeHost [0x08, 0x04, 0x0D, 0x28, 0x03, 0x01] = .ok (.init 0 [0x0D, 0x28, 0x03, 0x01]) ∧
    decodeHost [0x10, 0x01, 0x28] = .ok (.setChannel 0 [0x28]) ∧
    decodeHost [0x18, 0x00] = .ok (.getChannel 0 []) ∧
    decodeHost [0x20, 0x01, 0x02] = .ok (.setOutputPower 0 [0x02]) ∧
    decodeHost [0x28, 0x00] = .ok (.getOutputPower 0 []) ∧
    decodeHost [0x30, 0x01, 0x01] = .ok (.setDataRate 0 [0x01]) ∧
    decodeHost [0x38, 0x00] = .ok (.getDataRate 0 []) ∧
    decodeHost [0x40, 0x01, 0x01] = .ok (.setPowerMode 0 [0x01]) ∧
    decodeHost [0x48, 0x00] = .ok (.getPowerMode 0 []) ∧
    decodeHost [0x50, 0x00] = .ok (.getWorkingMode 0 []) ∧
    decodeHost [0x19, 0x00] = .ok (.getChannel 1 []) := by decide

theorem test_decode_transfer :
    decodeHost [0x58, 0x02, 0xDE, 0xAD] = .ok (.send 0 [0xDE, 0xAD]) ∧
    decodeHost [0x60, 0x00] = .ok (.registerConsumer 0 []) := by decide

theorem test_decode_pipe :
    decodeHost [0x85, 0x00] = .ok (.pipeGetAddress 5 []) ∧
    decodeHost [0x8A, 0x01, 0xA1] = .ok (.pipeSetAddress 2 [0xA1]) ∧
    decodeHost [0x93, 0x00] = .ok (.pipeGetAutoack 3 []) ∧
    decodeHost [0x9B, 0x01, 0x00] = .ok (.pipeSetAutoack 3 [0x00]) ∧
    decodeHost [0xA1, 0x00] = .ok (.pipeGetPayloadSize 1 []) ∧
    decodeHost [0xAD, 0x01, 0x20] = .ok (.pipeSetPayloadSize 5 [0x20]) ∧
    decodeHost [0xB7, 0x00] = .ok (.pipeGetEnabled 7 []) ∧
    decodeHost [0xBE, 0x01, 0x01] = .ok (.pipeSetEnabled 6 [0x01]) := by decide

theorem test_decode_reserved :
    decodeHost [0x00, 0x00] = .ok (.reservedOp00 0 []) ∧
    decodeHost [0x68, 0x00] = .ok (.reservedOp0D 0 []) ∧
    decodeHost [0x70, 0x00] = .ok (.reservedOp0E 0 []) ∧
    decodeHost [0x78, 0x01, 0x05] = .ok (.reservedOp0F 0 [0x05]) ∧
    decodeHost [0xC0, 0x00] = .ok (.reservedOp18 0 []) ∧
    decodeHost [0xC9, 0x00] = .ok (.reservedOp19 1 []) ∧
    decodeHost [0xD0, 0x00] = .ok (.reservedOp1A 0 []) ∧
    decodeHost [0xD8, 0x00] = .ok (.reservedOp1B 0 []) ∧
    decodeHost [0xE0, 0x00] = .ok (.reservedOp1C 0 []) ∧
    decodeHost [0xE8, 0x00] = .ok (.reservedOp1D 0 []) ∧
    decodeHost [0xF0, 0x00] = .ok (.reservedOp1E 0 []) ∧
    decodeHost [0xFF, 0x00] = .ok (.reservedOp1F 7 []) := by decide

theorem test_decode_wire :
    decodeWire Layout.default [0x05] = .ok (.rRegister 0x05) ∧
    decodeWire Layout.default [0x2A, 0x4E, 0x52, 0x46, 0x32, 0x34] = .ok (.wRegister 0x0A [0x4E, 0x52, 0x46, 0x32, 0x34]) ∧
    decodeWire Layout.default [0x61] = .ok .rRxPayload ∧
    decodeWire Layout.default [0xA0, 0x55] = .ok (.wTxPayload [0x55]) := by decide

/-- V1 to V4; and wire bytes that are none of R133's commands, FLUSH_TX and NOP among them (R137). -/
theorem test_decode_rejects :
    decodeHost [] = .error .hostTooShort ∧ decodeHost [0x18] = .error .hostTooShort ∧
    decodeHost [0x10, 0x01] = .error .hostLengthMismatch ∧
    decodeHost [0x18, 0x00, 0x00] = .error .hostLengthMismatch ∧
    decodeWire Layout.default [] = .error .wireEmpty ∧ decodeWire Layout.default [0xE1] = .error .wireNoCommand ∧
    decodeWire Layout.default [0xFF] = .error .wireNoCommand ∧ decodeWire Layout.default [0x61, 0x00] = .error .wireTrailingBytes ∧
    decodeWire Layout.default (0xA0 :: List.replicate 33 0x00) = .error .wirePayloadTooLong := by decide

theorem test_encode :
    encode Layout.default (.init 0 [0x0D, 0x28, 0x03, 0x01]) = [0x08, 0x04, 0x0D, 0x28, 0x03, 0x01] ∧
    encode Layout.default (.pipeSetAddress 2 [0xA1]) = [0x8A, 0x01, 0xA1] ∧
    encode Layout.default (.wRegister 0x05 [0x28]) = [0x25, 0x28] ∧ encode Layout.default .rRxPayload = [0x61] := by decide

/-- R122, R311: the response of V17, of a GET_CHANNEL of channel 40 and of an error; every status code. -/
theorem test_response_frames :
    responseFrame .ok [] = [0x00, 0x00] ∧ responseFrame .ok [0x28] = [0x00, 0x01, 0x28] ∧
    responseFrame .addressLength [] = [0x08, 0x00] ∧
    [Status.ok, .illegalOp, .faulted, .notInitialized, .alreadyInitialized, .pipeRange, .channelRange,
      .payloadSizeRange, .addressLength, .sendLength, .enumValue, .bus].map (fun c => c.code.toNat) =
      List.range 12 ∧
    ({ State.reset with trace := [.resp 3 .bus [], .ce true, .resp 7 .ok [0x28]] } : State).responses 7 =
      [[0x00, 0x01, 0x28]] := by decide

/-- Words numbered as the opcode table numbers them, zeros above; a word two rows share is read at the host port. -/
theorem test_table_words :
    decodeTableWord 8 0x08 = some (.init 0 []) ∧ decodeTableWord 16 0x0108 = some (.init 0 [0x00]) ∧
    decodeTableWord 8 0x90 = some (.pipeGetAutoack 0 []) ∧ decodeTableWord 8 0xF8 = some (.reservedOp1F 0 []) ∧
    decodeTableWord 8 0x61 = some .rRxPayload ∧ decodeTableWord 8 0x25 = some (.wRegister 0x05 [0x00]) ∧
    decodeTableWord 8 0x0B = some (.rRegister 0x0B) ∧ decodeTableWord 8 0xA0 = some (.pipeGetPayloadSize 0 []) ∧
    decodeTableWord 8 0x00 = some (.reservedOp00 0 []) := by decide

/-- 30_encoding.md R143, R144: lines of programs P1 and P2, a comment, a pseudo-operation, a number too large. -/
theorem test_assembler :
    assembleLine "PIPE_SET_ADDRESS P0, [0x4E,0x52,0x46,0x32,0x34]".toList =
      some [.pipeSetAddress 0 [0x4E, 0x52, 0x46, 0x32, 0x34]] ∧
    assembleLine "INIT 32, 76, -6DBM, 1MBPS   ; V55".toList = some [.init 0 [0x20, 0x4C, 0x02, 0x00]] ∧
    assembleLine "SET_POWER_MODE DOWN".toList = some [.setPowerMode 0 [0x00]] ∧
    assemble "CONFIGURE 2, 0DBM, 2MBPS\nPIPE_READ_CONFIG P7".toList =
      some [.setChannel 0 [0x02], .setOutputPower 0 [0x03], .setDataRate 0 [0x01], .pipeGetAddress 7 [],
        .pipeGetPayloadSize 7 [], .pipeGetAutoack 7 [], .pipeGetEnabled 7 []] ∧
    assembleLine "SET_CHANNEL 256".toList = none ∧ assembleLine "PIPE_GET_ENABLED P8".toList = none := by decide

/-! ### Steps -/

/-- The default parameters with eight host agents. -/
def eightAgents : Params := { Params.default with nHostAgents := 8 }

/-- "After INIT" of 95_test_vectors.md section 2. -/
def inited : State :=
  { State.reset with
    params := eightAgents
    fsm := .configuredRx, packetSize := 13, ce := true, edgeArmed := true
    chip := { Chip.reset with regs := [(0, 0x0B), (40, 0x28)] } }

/-- The same with other chip registers. -/
def initedWith (regs : Memory) : State := { inited with chip := { Chip.reset with regs := regs } }

/-- One step in which host agent 7 of a block with eight presents a frame. -/
def request (frame : List Byte) (s : State) : Option State :=
  match step { s with agenda := [.request 7 frame], params := { s.params with nHostAgents := 8 } } with
  | .next t => some t
  | .fault _ => none
  | .refused _ => none

/-- One step of another input. -/
def happens (i : Input) (s : State) : Option State :=
  match step { s with agenda := [i] } with
  | .next t => some t
  | .fault _ => none
  | .refused _ => none

/-- The events of that step, from a state with an empty trace. -/
def events (o : Option State) : Option (List Event) := o.map State.trace

/-- V55: INIT 32, 76, -6DBM, 1MBPS. -/
theorem test_init :
    events (request [0x08, 0x04, 0x20, 0x4C, 0x02, 0x00] State.reset) =
      some [.txn [0x06] 1 [0x0F], .txn [0x26, 0x0D] 0 [], .txn [0x06] 1 [0x0D], .txn [0x26, 0x05] 0 [],
        .txn [0x05] 1 [0x02], .txn [0x25, 0x4C] 0 [], .txn [0x00] 1 [0x08], .txn [0x20, 0x09] 0 [],
        .txn [0x00] 1 [0x09], .txn [0x20, 0x0B] 0 [], .delay .initSettle, .ce true, .resp 7 .ok []] := by decide

/-- V73: a bus error on the third transaction of INIT. -/
theorem test_init_bus_error :
    (request [0x08, 0x04, 0x0D, 0x28, 0x03, 0x01]
      { State.reset with answers := [.reference, .reference, .fail] }).map
        (fun t => (t.trace, t.faulted, t.fsm, t.packetSize, t.ce, t.edgeArmed)) =
      some ([.txn [0x06] 1 [0x0F], .txn [0x26, 0x0F] 0 [], .resp 7 .bus []], true, .uninitialized, 13, false,
        false) := by decide

/-- V58, V59. -/
theorem test_setChannel :
    events (request [0x10, 0x01, 0x7F] inited) =
      some [.txn [0x05] 1 [0x28], .txn [0x25, 0x7F] 0 [], .resp 7 .ok []] := by decide
theorem test_setChannel_range : events (request [0x10, 0x01, 0x80] inited) = some [.resp 7 .channelRange []] := by
  decide

/-- V60. -/
theorem test_getChannel :
    events (request [0x18, 0x00] (initedWith [(0, 0x0B), (40, 0xA8)])) =
      some [.txn [0x05] 1 [0xA8], .resp 7 .ok [0x28]] := by decide

/-- V61, V62. -/
theorem test_setOutputPower :
    events (request [0x20, 0x01, 0x02] inited) =
      some [.txn [0x06] 1 [0x0F], .txn [0x26, 0x0D] 0 [], .resp 7 .ok []] := by decide
theorem test_setOutputPower_value : events (request [0x20, 0x01, 0x04] inited) = some [.resp 7 .enumValue []] := by
  decide

/-- V63. -/
theorem test_getOutputPower :
    events (request [0x28, 0x00] (initedWith [(48, 0x0D)])) = some [.txn [0x06] 1 [0x0D], .resp 7 .ok [0x02]] := by
  decide

/-- V64, V65. -/
theorem test_setDataRate :
    events (request [0x30, 0x01, 0x01] (initedWith [(48, 0x07)])) =
      some [.txn [0x06] 1 [0x07], .txn [0x26, 0x0F] 0 [], .resp 7 .ok []] := by decide
theorem test_setDataRate_value : events (request [0x30, 0x01, 0x02] inited) = some [.resp 7 .enumValue []] := by
  decide

/-- V66. -/
theorem test_getDataRate : events (request [0x38, 0x00] inited) = some [.txn [0x06] 1 [0x0F], .resp 7 .ok [0x01]] := by
  decide

/-- V67, V68. -/
theorem test_setPowerMode_up :
    events (request [0x40, 0x01, 0x01] (initedWith [(0, 0x09)])) =
      some [.txn [0x00] 1 [0x09], .txn [0x20, 0x0B] 0 [], .resp 7 .ok []] := by decide
theorem test_setPowerMode_down :
    events (request [0x40, 0x01, 0x00] (initedWith [(0, 0x7B)])) =
      some [.txn [0x00] 1 [0x7B], .txn [0x20, 0x79] 0 [], .resp 7 .ok []] := by decide

/-- V70. -/
theorem test_getPowerMode :
    events (request [0x48, 0x00] (initedWith [(0, 0x09)])) = some [.txn [0x00] 1 [0x09], .resp 7 .ok [0x00]] := by
  decide

/-- V71, V72: the chip is read, not `fsm`. -/
theorem test_getWorkingMode :
    events (request [0x50, 0x00] (initedWith [(0, 0x0A)])) = some [.txn [0x00] 1 [0x0A], .resp 7 .ok [0x00]] := by
  decide

/-- V77: SEND in power mode Down with the masks set. -/
theorem test_send :
    events (request [0x58, 0x01, 0x55] (initedWith [(0, 0xF9)])) =
      some [.txn [0x00] 1 [0xF9], .txn [0x20, 0xF8] 0 [], .ce false, .txn [0xA0, 0x55] 0 [], .ce true,
        .delay .ceHold, .ce false, .txn [0x00] 1 [0xF8], .txn [0x20, 0xF9] 0 [], .ce true, .resp 7 .ok []] := by
  decide

/-- V78: a bus error on the write-payload transaction. -/
theorem test_send_bus_error :
    (request [0x58, 0x01, 0x55] { inited with answers := [.reference, .reference, .fail] }).map
        (fun t => (t.trace, t.faulted, t.fsm, t.ce, t.chip.config t.layout)) =
      some ([.txn [0x00] 1 [0x0B], .txn [0x20, 0x0A] 0 [], .ce false, .resp 7 .bus []], true, .configuredTx, false,
        0x0A) := by decide

/-- V17, V26. -/
theorem test_registerConsumer :
    (request [0x60, 0x00] State.reset).map (fun t => (t.trace, t.consumerRegistered)) =
      some ([.resp 7 .ok []], true) := by decide
theorem test_registerConsumer_faulted :
    events (request [0x60, 0x00] { State.reset with faulted := true }) = some [.resp 7 .faulted []] := by decide

/-- V92, V93. -/
theorem test_pipeGetAddress :
    events (request [0x80, 0x00] inited) =
      some [.txn [0x0A] 5 [0xE7, 0xE7, 0xE7, 0xE7, 0xE7], .resp 7 .ok [0xE7, 0xE7, 0xE7, 0xE7, 0xE7]] := by decide
theorem test_pipeGetAddress_own_byte :
    events (request [0x85, 0x00] inited) = some [.txn [0x0F] 1 [0xC6], .resp 7 .ok [0xC6]] := by decide

/-- V94; E1. -/
theorem test_pipeSetAddress :
    events (request [0x89, 0x01, 0x99] inited) =
      some [.txn [0x0B] 5 [0xC2, 0xC2, 0xC2, 0xC2, 0xC2], .txn [0x2B, 0x99, 0xC2, 0xC2, 0xC2, 0xC2] 0 [],
        .resp 7 .ok []] := by decide
theorem test_pipeSetAddress_length :
    events (request [0x8C, 0x02, 0x01, 0x02] inited) = some [.resp 7 .addressLength []] := by decide

/-- V97. -/
theorem test_pipeGetAutoack :
    events (request [0x95, 0x00] inited) = some [.txn [0x01] 1 [0x3F], .resp 7 .ok [0x01]] := by decide

/-- E4, V96. -/
theorem test_pipeSetAutoack :
    events (request [0x9B, 0x01, 0x01] (initedWith [(0, 0x0B), (8, 0xC5)])) =
      some [.txn [0x01] 1 [0xC5], .txn [0x21, 0xCD] 0 [], .resp 7 .ok []] := by decide
theorem test_pipeSetAutoack_value : events (request [0x98, 0x01, 0x02] inited) = some [.resp 7 .enumValue []] := by
  decide

/-- V100. -/
theorem test_pipeGetPayloadSize :
    events (request [0xA1, 0x00] (initedWith [(144, 0xE1)])) = some [.txn [0x12] 1 [0xE1], .resp 7 .ok [0x21]] := by
  decide

/-- E2 with bits 7:6 set; V99. -/
theorem test_pipeSetPayloadSize :
    events (request [0xAA, 0x01, 0x11] (initedWith [(152, 0xC0)])) =
      some [.txn [0x13] 1 [0xC0], .txn [0x33, 0xD1] 0 [], .resp 7 .ok []] := by decide
theorem test_pipeSetPayloadSize_range :
    events (request [0xAA, 0x01, 0x21] inited) = some [.resp 7 .payloadSizeRange []] := by decide

/-- V102, V103. -/
theorem test_pipeGetEnabled :
    events (request [0xB1, 0x00] inited) = some [.txn [0x02] 1 [0x03], .resp 7 .ok [0x01]] := by decide
theorem test_pipeGetEnabled_pipe : events (request [0xB7, 0x00] inited) = some [.resp 7 .pipeRange []] := by decide

/-- V101, V104. -/
theorem test_pipeSetEnabled :
    events (request [0xB8, 0x01, 0x00] inited) =
      some [.txn [0x02] 1 [0x03], .txn [0x22, 0x02] 0 [], .resp 7 .ok []] := by decide
theorem test_pipeSetEnabled_pipe : events (request [0xBE, 0x01, 0x01] inited) = some [.resp 7 .pipeRange []] := by
  decide

/-- V5 to V7, V14. -/
theorem test_reserved :
    events (request [0x00, 0x00] { State.reset with faulted := true }) = some [.resp 7 .illegalOp []] ∧
    events (request [0x68, 0x00] State.reset) = some [.resp 7 .illegalOp []] ∧
    events (request [0xF8, 0x00] inited) = some [.resp 7 .illegalOp []] := by decide

/-- V1, V3, V8, V10, V12. -/
theorem test_illegal_frames :
    events (request [] State.reset) = some [.resp 7 .illegalOp []] ∧
    events (request [0x10, 0x01] State.reset) = some [.resp 7 .illegalOp []] ∧
    events (request [0x19, 0x00] State.reset) = some [.resp 7 .illegalOp []] ∧
    events (request [0x18, 0x01, 0x00] State.reset) = some [.resp 7 .illegalOp []] ∧
    events (request [0x08, 0x03, 0x0D, 0x28, 0x03] State.reset) = some [.resp 7 .illegalOp []] := by decide

/-- V15, V19, V20, V23, V24, V25: the order of the checks. -/
theorem test_validation_order :
    events (request [0x10, 0x01, 0xC8] State.reset) = some [.resp 7 .notInitialized []] ∧
    events (request [0x08, 0x04, 0x21, 0xC8, 0x05, 0x02] State.reset) = some [.resp 7 .payloadSizeRange []] ∧
    events (request [0x08, 0x04, 0x0D, 0xC8, 0x05, 0x02] State.reset) = some [.resp 7 .channelRange []] ∧
    events (request [0x08, 0x04, 0xFF, 0xFF, 0xFF, 0xFF] inited) = some [.resp 7 .alreadyInitialized []] ∧
    events (request [0xAF, 0x01, 0x28] inited) = some [.resp 7 .pipeRange []] ∧
    events (request [0x08, 0x04, 0x0D, 0x28, 0x03, 0x01] { State.reset with faulted := true }) =
      some [.resp 7 .faulted []] := by decide

/-- The wire commands: 20_memory.md R108, R109, R110, R111, R112; the block records none of them. -/
theorem test_rRegister :
    (happens (.wire [0x0B]) inited).map (fun t => (t.wireRx, t.trace)) =
      some ([0xC2, 0xC2, 0xC2, 0xC2, 0xC2], []) := by decide
theorem test_wRegister_status :
    (happens (.wire [0x27, 0x40]) (initedWith [(56, 0x6E)])).map (fun t => t.chip.status t.layout) = some 0x2E := by
  decide
theorem test_wRegister :
    (happens (.wire [0x2A, 0x01, 0x02, 0x03, 0x04, 0x05]) inited).map (fun t => t.chip.readReg t.layout 0x0A) =
      some [0x01, 0x02, 0x03, 0x04, 0x05] := by decide
theorem test_rRxPayload :
    (happens (.wire [0x61])
      { inited with packetSize := 2, chip := { inited.chip with rxFifo := [⟨1, [0xAA, 0xBB]⟩, ⟨4, [0xCC]⟩] } }).map
        (fun t => (t.wireRx, t.chip.rxFifo, t.chip.status t.layout)) =
      some ([0xAA, 0xBB], [⟨4, [0xCC]⟩], 0x08) := by decide
theorem test_wTxPayload :
    (happens (.wire [0xA0, 0x55]) inited).map (fun t => (t.trace, t.chip.txFifo)) =
      some ([], [[0x55]]) := by decide
theorem test_wire_no_command : happens (.wire [0xE1]) inited = none := by decide

/-- Another layout: opcodes 0x40 and 0x80, RF_CH at 0x1E with its channel in bits 7:1, and the RX-ready bit 7. -/
def moved : Layout :=
  { Layout.default with
    opcRRegister := 0x40, opcWRegister := 0x80, regRfCh := 0x1E, channelField := ⟨0xFE, 1⟩, rxReadyBit := 7 }

theorem test_moved_layout :
    moved.wf = true ∧
    events (request [0x10, 0x01, 0x28] { inited with params := ⟨1, true, 8, moved⟩ }) =
      some [.txn [0x5E] 1 [0x00], .txn [0x9E, 0x50] 0 [], .resp 7 .ok []] := by decide

/-- V84: e1 arrives, the line falls, the edge is latched, the handler delivers it. -/
def packet : List Byte := [0x01, 0x02, 0x03, 0x04, 0x05, 0x06, 0x07, 0x08, 0x09, 0x0A, 0x0B, 0x0C, 0x0D]

/-- Pipe 0 receives 13 bytes. -/
def listening : State := initedWith [(0, 0x0B), (40, 0x28), (136, 0x0D)]

theorem test_reception :
    (happens (.reception 0 packet) listening).map (fun t => (t.chip.status t.layout, t.chip.rxFifo, t.chip.irqLine t.layout)) =
      some (0x40, [⟨0, packet⟩], false) := by decide

/-- `listening` after the packet, the edge latched. -/
def arrived : State :=
  { listening with
    irqPending := 1, irqLevel := false
    chip := { listening.chip with regs := [(0, 0x0B), (40, 0x28), (56, 0x40), (136, 0x0D)], rxFifo := [⟨0, packet⟩] } }

/-- V84, V85. -/
theorem test_handler_deliver :
    (happens .handler { arrived with consumerRegistered := true }).map
        (fun t => (t.trace, t.chip.status t.layout, t.irqPending, t.droppedCount)) =
      some ([.ce false, .txn [0x61] 13 packet, .txn [0x27, 0x40] 0 [], .ce true, .deliver packet], 0x0E, 0, 0) := by
  decide
theorem test_handler_drop :
    (happens .handler arrived).map (fun t => (t.trace.getLast?, t.droppedCount)) = some (some (.drop packet), 1) := by
  decide

/-- V83, V86, V87. -/
theorem test_edges :
    (happens (.sample false) State.reset).map State.irqPending = some 0 ∧
    (happens (.sample false) { inited with irqPending := 1 }).map State.irqPending = some 1 ∧
    (happens (.sample false) { inited with irqPending := 1, params := ⟨2, true, 8, Layout.default⟩ }).map State.irqPending = some 2 := by
  decide

/-- V91: a bus error in the drain. -/
theorem test_handler_bus_error :
    (happens .handler { arrived with answers := [.fail] }).map (fun t => (t.trace, t.faulted, t.ce, t.lock)) =
      some ([.ce false], true, false, .free) := by decide

/-- P4: the chip transmits what a hold has seen; TX_DS, the line falls. -/
theorem test_transmission :
    (happens (.transmission true)
      { inited with chip := { inited.chip with txFifo := [[0x01]], held := 1 } }).map
        (fun t => (t.chip.status t.layout, t.chip.txFifo, t.chip.irqLine t.layout)) = some (0x2E, [], false) := by decide

/-- Two SENDs, then two transmissions, all after chip-enable fell in each pulse (20_memory.md R115). -/
theorem test_two_sends_two_transmissions :
    (((request [0x58, 0x01, 0x55] inited).bind (request [0x58, 0x01, 0x66])).map
      (fun t => (t.chip.txFifo, t.chip.held)) = some ([[0x55], [0x66]], 2)) ∧
    (((happens (.transmission true)
      { inited with chip := { inited.chip with txFifo := [[0x55], [0x66]], held := 2 } }).bind
        (happens (.transmission false))).map (fun t => (t.chip.txFifo, t.chip.status t.layout)) =
      some ([], 0x3E)) := by decide

/-- Chip-enable high in Transmit mode outside a SEND: a hold, then it falls, then the transmission. -/
theorem test_hold_outside_send :
    ((happens .holdPasses { initedWith [(0, 0x0A)] with
        chip := { (initedWith [(0, 0x0A)]).chip with txFifo := [[0x55]] } }).map fun t => t.chip.held) = some 1 ∧
    ((happens .holdPasses { inited with chip := { inited.chip with txFifo := [[0x55]] } }).map fun t => t.chip.held) =
      some 0 := by decide

/-- A 0-byte packet on an enabled pipe whose RX_PW is 0 (log entry 19). -/
theorem test_reception_empty :
    (happens (.reception 1 []) inited).map (fun t => t.chip.rxFifo) = some [⟨1, []⟩] := by decide

/-- An agent moves primitive by primitive: GET_CHANNEL issued, then `Acquire()`. -/
theorem test_issue_and_advance :
    (happens (.issue 7 [0x18, 0x00]) inited).map (fun t => (t.lock, (t.seqOf (.host 7)).map Busy.step)) =
      some (.free, some 0) ∧
    ((happens (.issue 7 [0x18, 0x00]) inited).bind (happens (.advance (.host 7)))).map
      (fun t => (t.lock, (t.seqOf (.host 7)).map Busy.step)) = some (.held (.host 7), some 1) := by decide

/-- N_HOST_AGENTS (00_scope.md R11): of eight agents number 7 is one and number 8 is none. -/
theorem test_agents :
    (happens (.request 7 [0x60, 0x00]) inited).map State.consumerRegistered = some true ∧
    (happens (.request 8 [0x60, 0x00]) inited).map State.consumerRegistered = some false ∧
    (happens (.issue 7 [0x60, 0x00]) inited).map (fun t => (t.seqOf (.host 7)).isSome) = some true ∧
    happens (.issue 8 [0x60, 0x00]) inited = some inited := by decide

/-- A word presented by withFetchWord is executed by the very next step. -/
theorem test_withFetchWord :
    (match step (State.reset.withFetchWord 8 0x60) with
      | .next t => some (t.trace, t.consumerRegistered)
      | .fault _ => none
      | .refused _ => none) = some ([.resp 0 .ok []], true) := by decide

/-- Also in a block whose one host agent waits. -/
theorem test_withFetchWord_busy :
    (match step ({ State.reset with
        hostSeq := [(0, ⟨.instr (.getChannel 0 []), 0, Locals.start, .main⟩)] }.withFetchWord 8 0x60) with
      | .next t => some (t.trace, t.consumerRegistered)
      | .fault _ => none
      | .refused _ => none) = some ([.resp 1 .ok []], true) := by decide

/-! ### Witnesses: states and operands that meet the hypotheses of a statement together -/

theorem inited_configured : inited.configured := ⟨⟨rfl, rfl⟩, by decide⟩
theorem inited_onReference : inited.onReference := ⟨rfl, by decide⟩
theorem reset_ready : State.reset.ready := ⟨rfl, rfl⟩

theorem witness_ResetChipReadsAsChipReset : (0 : BitVec 3).toNat ≤ 5 ∧ (5 : BitVec 3).toNat ≤ 5 := by decide

theorem witness_FramesDecodeAsTheMapsSay : ([0x28] : List Byte).length ≤ 255 := by decide

theorem witness_StepRunsTheDecodedFrame :
    (7 < inited.params.nHostAgents ∧ inited.seqOf (.host 7) = none) ∧
    (inited.params.nHostAgents ≤ 8 ∧
      { inited with agenda := [.request 8 [0x18, 0x00]] }.agenda = Input.request 8 [0x18, 0x00] :: []) ∧
    ({ inited with
        agenda := [.issue 7 [0x18, 0x00]]
        hostSeq := [(7, ⟨.instr (.getChannel 0 []), 0, Locals.start, .main⟩)] }.seqOf (.host 7) ≠ none ∧
      { inited with agenda := [.issue 7 [0x18, 0x00]] }.agenda = Input.issue 7 [0x18, 0x00] :: []) ∧
    { inited with agenda := [.request 7 [0x18, 0x00]] }.agenda = Input.request 7 [0x18, 0x00] :: [] ∧
    decodeHost [0x18, 0x00] = .ok (.getChannel 0 []) ∧
    { inited with agenda := [.wire [0x61]] }.agenda = Input.wire [0x61] :: [] ∧
    decodeWire inited.layout [0x61] = .ok .rRxPayload := by decide

theorem witness_IllegalFramesAreRefused :
    { inited with agenda := [.request 7 [0x18]] }.agenda = Input.request 7 [0x18] :: [] ∧
    7 < inited.params.nHostAgents ∧ inited.seqOf (.host 7) = none ∧
    ([0x18] : List Byte).length < 2 ∧
    ([0x10, 0x01] : List Byte).length ≠ 2 + (([0x10, 0x01] : List Byte).getD 1 0).toNat ∧
    decodeHost [0xF8, 0x00] = .ok (.reservedOp1F 0 []) ∧ (Instr.reservedOp1F 0 []).isOperation = false ∧
    decodeHost [0x19, 0x00] = .ok (.getChannel 1 []) ∧ (Instr.getChannel 1 []).wellFormed inited.layout = false ∧
    ¬(([0x18, 0x00] : List Byte).length < 2 ∨
      ([0x18, 0x00] : List Byte).length ≠ 2 + (([0x18, 0x00] : List Byte).getD 1 0).toNat) := by decide

theorem witness_DecodeInvertsEncode :
    moved.wf = true ∧
    (Instr.send 0 (List.replicate 255 0xFF)).wellFormed moved = true ∧
    (Instr.pipeSetEnabled 7 [0xFF]).wellFormed moved = true ∧
    (Instr.wRegister 0x0A [1, 2, 3, 4, 5]).wellFormed moved = true ∧ (Instr.wTxPayload [0x00]).wellFormed moved = true :=
  ⟨by decide, (by simp only [Instr.wellFormed, WellFormed.fits, List.length_replicate]; decide), by decide, by decide,
    by decide⟩

theorem witness_EncodeInvertsDecode :
    decode moved .host [0x08, 0x00] = .ok (.init 0 []) ∧ decode moved .wire [0x9F] = .ok (.wRegister 0x1F []) := by
  decide

/-- Bytes that are no frame; and an operation that waited while another agent faulted the block, or ran INIT. -/
theorem witness_FirstErrorIsReported_frames_and_rechecks :
    7 < inited.params.nHostAgents ∧ inited.seqOf (.host 7) = none ∧ decodeHost [0x18] = .error .hostTooShort ∧
    ({ inited with faulted := true, hostSeq := [(7, ⟨.instr (.getChannel 0 []), 0, Locals.start, .main⟩)] }.seqOf
      (.host 7) = some ⟨.instr (.getChannel 0 []), 0, ⟨[], false⟩, .main⟩) ∧
    ({ inited with hostSeq := [(7, ⟨.instr (.init 0 [0, 0, 0, 0]), 0, Locals.start, .main⟩)] }.seqOf (.host 7) =
      some ⟨.instr (.init 0 [0, 0, 0, 0]), 0, ⟨[], false⟩, .main⟩) ∧
    isInit (.init 0 [0, 0, 0, 0]) = true ∧ inited.lock = .free ∧ inited.faulted = false ∧
    inited.fsm ≠ .uninitialized := by decide

/-- One witness for each error code of R323. -/
theorem witness_FirstErrorIsReported :
    (decodeHost [0xF8, 0x00] = .ok (.reservedOp1F 0 []) ∧
      expectedError (.reservedOp1F 0 []) inited = some .illegalOp) ∧
    (decodeHost [0x19, 0x00] = .ok (.getChannel 1 []) ∧
      expectedError (.getChannel 1 []) inited = some .illegalOp) ∧
    (decodeHost [0x18, 0x00] = .ok (.getChannel 0 []) ∧
      expectedError (.getChannel 0 []) { inited with faulted := true } = some .faulted ∧
      expectedError (.getChannel 0 []) State.reset = some .notInitialized) ∧
    (decodeHost [0x08, 0x04, 0x20, 0x7F, 0x03, 0x01] = .ok (.init 0 [0x20, 0x7F, 0x03, 0x01]) ∧
      expectedError (.init 0 [0x20, 0x7F, 0x03, 0x01]) inited = some .alreadyInitialized ∧
      expectedError (.init 0 [0x21, 0x7F, 0x03, 0x01]) State.reset = some .payloadSizeRange ∧
      expectedError (.init 0 [0x20, 0x80, 0x03, 0x01]) State.reset = some .channelRange ∧
      expectedError (.init 0 [0x20, 0x7F, 0x04, 0x01]) State.reset = some .enumValue ∧
      expectedError (.init 0 [0x20, 0x7F, 0x03, 0x02]) State.reset = some .enumValue) ∧
    (decodeHost [0x86, 0x00] = .ok (.pipeGetAddress 6 []) ∧
      expectedError (.pipeGetAddress 6 []) inited = some .pipeRange) ∧
    (decodeHost [0x58, 0x00] = .ok (.send 0 []) ∧ expectedError (.send 0 []) inited = some .sendLength ∧
      expectedError (.send 0 (List.replicate 14 0x00)) inited = some .sendLength) ∧
    (decodeHost [0x88, 0x00] = .ok (.pipeSetAddress 0 []) ∧
      expectedError (.pipeSetAddress 0 []) inited = some .addressLength ∧
      expectedError (.pipeSetAddress 2 [1, 2]) inited = some .addressLength) := by decide

theorem witness_OperationWaitsForTheExclusion :
    decodeHost [0x18, 0x00] = .ok (.getChannel 0 []) ∧ (Instr.getChannel 0 []).isOperation = true ∧
    expectedError (.getChannel 0 []) { inited with lock := .held .irq } = none ∧
    { inited with lock := .held .irq }.lock = .held .irq := by decide

theorem witness_FaultIsForEver :
    (∃ t, step { inited with faulted := true } = .next t) ∧ { inited with faulted := true }.faulted = true ∧
    (Instr.send 0 [0x01]).isOperation = true ∧ (Instr.send 0 [0x01]).wellFormed inited.layout = true ∧ inited.irqSeq = none ∧
    { inited with irqSeq := some ⟨.drain, 2, Locals.start, .main⟩ }.irqSeq =
      some ⟨.drain, 2, Locals.start, .main⟩ :=
  ⟨⟨_, rfl⟩, by decide⟩

/-- Every bound at its limit. -/
theorem witness_InitConfiguresTheBlock :
    State.reset.ready ∧ State.reset.fsm = .uninitialized ∧ (0x20 : Byte).toNat ≤ 32 ∧ (0x7F : Byte).toNat ≤ 127 ∧
    (0x03 : Byte).toNat ≤ 3 ∧ (0x01 : Byte).toNat ≤ 1 ∧ State.reset.onReference :=
  ⟨reset_ready, rfl, by decide, by decide, by decide, by decide, ⟨rfl, by decide⟩⟩

/-- The same hypotheses; the three outcomes with no answer, a failing one and a hanging one. -/
theorem witness_InitInEveryEnvironment :
    { State.reset with answers := [.fail] }.ready ∧ { State.reset with answers := [.hang] }.ready ∧
    State.reset.fsm = .uninitialized ∧ (0x00 : Byte).toNat ≤ 32 ∧ (0x00 : Byte).toNat ≤ 127 ∧
    (0x00 : Byte).toNat ≤ 3 ∧ (0x00 : Byte).toNat ≤ 1 :=
  ⟨⟨rfl, rfl⟩, ⟨rfl, rfl⟩, rfl, by decide, by decide, by decide, by decide⟩

/-- A first error of each operation whose result statement says that it refuses its errors. -/
theorem witness_RefusesErrors :
    (∀ i ∈ [Instr.setChannel 0 [0x28], .setOutputPower 0 [0x03], .setDataRate 0 [0x01], .setPowerMode 0 [0x01],
      .getChannel 0 [], .getOutputPower 0 [], .getDataRate 0 [], .getPowerMode 0 [], .getWorkingMode 0 []],
      expectedError i State.reset = some .notInitialized) ∧
    ∀ i ∈ [Instr.pipeGetAddress 6 [], .pipeGetAutoack 6 [], .pipeSetAutoack 6 [0x01], .pipeGetPayloadSize 7 [],
      .pipeSetPayloadSize 7 [0x20], .pipeGetEnabled 7 [], .pipeSetEnabled 7 [0x01]],
      expectedError i inited = some .pipeRange := by decide

theorem witness_SetChannelWritesTheChannel :
    inited.configured ∧ (0x80 : Byte).toNat > 127 ∧ (0x7F : Byte).toNat ≤ 127 ∧ inited.onReference :=
  ⟨inited_configured, by decide, by decide, inited_onReference⟩

theorem witness_SetOutputPowerWritesBitsTwoToOne :
    inited.configured ∧ (0x04 : Byte).toNat > 3 ∧ (0x03 : Byte).toNat ≤ 3 ∧ inited.onReference :=
  ⟨inited_configured, by decide, by decide, inited_onReference⟩

theorem witness_SetDataRateWritesBitThree :
    inited.configured ∧ (0x02 : Byte).toNat > 1 ∧ (0x01 : Byte).toNat ≤ 1 ∧ inited.onReference :=
  ⟨inited_configured, by decide, by decide, inited_onReference⟩

theorem witness_SetPowerModeWritesBitOne :
    inited.configured ∧ (0x02 : Byte).toNat > 1 ∧ (0x01 : Byte).toNat ≤ 1 ∧ inited.onReference :=
  ⟨inited_configured, by decide, by decide, inited_onReference⟩

theorem witness_DeviceGetsReadTheChip : inited.configured ∧ inited.onReference :=
  ⟨inited_configured, inited_onReference⟩

/-- A TX FIFO with room, and a full one; a payload of one byte and one of packetSize; an empty one and one too long. -/
theorem witness_SendRunsItsSequence :
    inited.configured ∧ inited.onReference ∧ 1 ≤ ([0x55] : List Byte).length ∧ packet.length ≤ inited.packetSize ∧
    inited.packetSize ≤ 32 ∧ inited.chip.txFifo.length < 3 ∧
    { inited with chip := { inited.chip with txFifo := [[1], [2], [3]] } }.configured ∧
    3 ≤ { inited with chip := { inited.chip with txFifo := [[1], [2], [3]] } }.chip.txFifo.length ∧
    ([] : List Byte).length = 0 ∧ inited.packetSize < (0x00 :: packet).length :=
  ⟨inited_configured, inited_onReference, by decide, by decide, by decide, by decide, ⟨⟨rfl, rfl⟩, by decide⟩, by decide,
    rfl, by decide⟩

theorem witness_SendThatReturnsOkEndsInReceive :
    ∃ t es, inited.configured ∧ exec (.send 0 [0x55]) inited = .next t ∧ t.trace = inited.trace ++ es ∧
      es.getLast? = some (.resp inited.requester .ok []) :=
  ⟨_, _, inited_configured, rfl, rfl, by decide⟩

theorem witness_SendsInARowEndInReceive :
    ([[0xDE, 0xAD], [0x01]] : List (List Byte)) ≠ [] ∧ inited.configured ∧ inited.onReference ∧
    inited.packetSize ≤ 32 ∧
    ∀ p ∈ ([[0xDE, 0xAD], [0x01]] : List (List Byte)), 1 ≤ p.length ∧ p.length ≤ inited.packetSize :=
  ⟨by decide, inited_configured, inited_onReference, by decide, by decide⟩

theorem witness_RegisterConsumerSetsTheFlag :
    { State.reset with faulted := true }.faulted = true ∧ State.reset.ready ∧ inited.ready :=
  ⟨rfl, reset_ready, ⟨rfl, rfl⟩⟩

/-- A pipe of five bytes and one of one byte, each at the end of its range. -/
theorem witness_PipeGetAddressReturnsTheRegister :
    inited.configured ∧ inited.onReference ∧ (1 : BitVec 3).toNat ≤ 1 ∧ (5 : BitVec 3).toNat ≤ 5 ∧
    ¬(5 : BitVec 3).toNat ≤ 1 :=
  ⟨inited_configured, inited_onReference, by decide, by decide, by decide⟩

theorem witness_PipeSetAddressReplacesTheLowBytes :
    inited.configured ∧ inited.onReference ∧ (1 : BitVec 3).toNat ≤ 1 ∧ (2 : BitVec 3).toNat ≤ 5 ∧
    ¬(2 : BitVec 3).toNat ≤ 1 ∧ (1 ≤ ([1] : List Byte).length ∧ ([1, 2, 3, 4, 5] : List Byte).length ≤ 5) ∧
    ¬([] : List Byte).length = 1 ∧ ¬([1, 2, 3, 4, 5, 6] : List Byte).length ≤ 5 :=
  ⟨inited_configured, inited_onReference, by decide, by decide, by decide, by decide, by decide, by decide⟩

theorem witness_PipeAutoackIsBitPOfEnAa :
    inited.configured ∧ inited.onReference ∧ (5 : BitVec 3).toNat ≤ 5 ∧ (0x02 : Byte).toNat > 1 ∧
    (0x01 : Byte).toNat ≤ 1 :=
  ⟨inited_configured, inited_onReference, by decide, by decide, by decide⟩

theorem witness_PipePayloadSizeIsTheLowSixBits :
    inited.configured ∧ inited.onReference ∧ (5 : BitVec 3).toNat ≤ 5 ∧ (0x21 : Byte).toNat > 32 ∧
    (0x20 : Byte).toNat ≤ 32 :=
  ⟨inited_configured, inited_onReference, by decide, by decide, by decide⟩

theorem witness_PipeEnabledIsBitPOfEnRxaddr :
    inited.configured ∧ inited.onReference ∧ (5 : BitVec 3).toNat ≤ 5 ∧ (0x02 : Byte).toNat > 1 ∧
    (0x01 : Byte).toNat ≤ 1 :=
  ⟨inited_configured, inited_onReference, by decide, by decide, by decide⟩

theorem witness_SettingOnePipesBitAltersNoOther :
    inited.configured ∧ inited.onReference ∧ (5 : BitVec 3).toNat ≤ 5 ∧ (0x01 : Byte).toNat ≤ 1 ∧
    (∃ t pre old new post, exec (.pipeSetAutoack 5 [0x01]) inited = .next t ∧
      t.trace = inited.trace ++ pre ++ [readEvent inited.layout inited.layout.regEnAa [old],
        writeEvent inited.layout inited.layout.regEnAa [new]] ++ post) ∧
    (∃ t pre old new post, exec (.pipeSetEnabled 5 [0x01]) inited = .next t ∧
      t.trace = inited.trace ++ pre ++ [readEvent inited.layout inited.layout.regEnRxaddr [old],
        writeEvent inited.layout inited.layout.regEnRxaddr [new]] ++ post) :=
  ⟨inited_configured, inited_onReference, by decide, by decide,
    ⟨_, [], 0x3F, 0x3F, [.resp 0 .ok []], rfl, by decide⟩, ⟨_, [], 0x03, 0x23, [.resp 0 .ok []], rfl, by decide⟩⟩

theorem witness_PayloadSizeRoundTrips :
    (5 : BitVec 3).toNat ≤ 5 ∧ (0x20 : Byte).toNat ≤ 32 ∧ inited.configured ∧ inited.onReference :=
  ⟨by decide, by decide, inited_configured, inited_onReference⟩

theorem witness_AddressLengthsPassAndFail :
    inited.configured ∧ (1 : BitVec 3).toNat ≤ 1 ∧ 1 ≤ ([1] : List Byte).length ∧
    ([1, 2, 3, 4, 5] : List Byte).length ≤ 5 ∧ inited.onReference ∧ 2 ≤ (2 : BitVec 3).toNat ∧
    (5 : BitVec 3).toNat ≤ 5 ∧ 1 < ([1, 2] : List Byte).length :=
  ⟨inited_configured, by decide, by decide, by decide, inited_onReference, by decide, by decide, by decide⟩

theorem witness_GetsReturnTheViews : (5 : BitVec 3).toNat ≤ 5 ∧ inited.configured ∧ inited.onReference :=
  ⟨by decide, inited_configured, inited_onReference⟩

theorem witness_ReadRegisterReturnsTheRegister :
    WellFormed.widthOf inited.layout 0x00 ≠ 0 ∧ WellFormed.widthOf inited.layout 0x16 ≠ 0 ∧
    inited.layout.wf = true ∧ inited.onReference :=
  ⟨by decide, by decide, by decide, inited_onReference⟩

theorem witness_WriteRegisterWritesTheRegister :
    WellFormed.widthOf inited.layout 0x0B ≠ 0 ∧
    ([1, 2, 3, 4, 5] : List Byte).length = WellFormed.widthOf inited.layout 0x0B ∧ inited.layout.wf = true ∧
    inited.onReference :=
  ⟨by decide, by decide, by decide, inited_onReference⟩

theorem witness_ReadRxPayloadTakesTheHead : inited.layout.wf = true ∧ inited.onReference ∧ arrived.onReference :=
  ⟨by decide, inited_onReference, ⟨rfl, by decide⟩⟩

theorem witness_WriteTxPayloadAppends :
    1 ≤ ([0x55] : List Byte).length ∧ (List.replicate 32 (0x55 : Byte)).length ≤ 32 ∧ inited.layout.wf = true ∧
    inited.onReference ∧ { inited.chip with txFifo := [[1], [2]] }.txFifo.length < 3 ∧
    3 ≤ { inited.chip with txFifo := [[1], [2], [3]] }.txFifo.length :=
  ⟨by decide, by decide, by decide, inited_onReference, by decide, by decide⟩

theorem witness_UndescribedRegistersHoldNothing :
    WellFormed.widthOf inited.layout 0x03 = 0 ∧ WellFormed.widthOf inited.layout 0x17 = 0 ∧ inited.onReference ∧
    ([0x01] : List Byte).length ≤ 32 :=
  ⟨by decide, by decide, inited_onReference, by decide⟩

theorem witness_ReferenceWriteChangesItsRegisterOnly :
    (0x0B : BitVec 5) ≠ Layout.default.regStatus ∧ 4 < ([1, 2, 3, 4, 5] : List Byte).length ∧
    4 < WellFormed.widthOf Layout.default 0x0B ∧ 87 < 8 * (0x0B : BitVec 5).toNat ∧
    8 * (0x0B : BitVec 5).toNat + min ([1, 2, 3, 4, 5] : List Byte).length (WellFormed.widthOf Layout.default 0x0B) ≤
      93 ∧
    (55 : Nat) ≠ 8 * Layout.default.regStatus.toNat := by decide

theorem witness_DecodersReadTheirBits : (0 : BitVec 3).toNat ≤ 5 ∧ (5 : BitVec 3).toNat ≤ 5 := by decide

theorem witness_FallingEdgesAreLatched :
    inited.irqLevel = true ∧ inited.edgeArmed = true ∧
    ¬(State.reset.irqLevel = true ∧ false = false ∧ State.reset.edgeArmed = true) := by decide

theorem witness_HandlerDrainsOnePacket :
    arrived.irqSeq = none ∧ 0 < arrived.irqPending ∧ arrived.ready ∧ arrived.fsm = .configuredRx ∧
    arrived.onReference :=
  ⟨rfl, by decide, ⟨rfl, rfl⟩, rfl, ⟨rfl, by decide⟩⟩

theorem witness_HandlerDiscardsWaitsOrRests :
    (arrived.irqSeq = none ∧ 0 < arrived.irqPending ∧ arrived.lock = .free ∧
      { arrived with faulted := true }.faulted = true ∧ { arrived with fsm := .configuredTx }.fsm ≠ .configuredRx) ∧
    { arrived with lock := .held (.host 7) }.lock = .held (.host 7) ∧ inited.irqPending = 0 ∧
    { arrived with irqSeq := some ⟨.drain, 1, Locals.start, .main⟩ }.irqSeq ≠ none := by decide

theorem witness_PacketsHavePacketSizeBytes :
    ∃ es, (takeInterrupt { arrived with consumerRegistered := true }).trace = arrived.trace ++ es ∧
      .deliver packet ∈ es :=
  ⟨[.ce false, .txn [0x61] 13 packet, .txn [0x27, 0x40] 0 [], .ce true, .deliver packet], by decide, by decide⟩

/-- The IRQ agent past its drain, about to drop the packet, and its next move. -/
def dropping : State :=
  { inited with
    irqSeq := some ⟨.drain, 9, ⟨packet, false⟩, .main⟩
    agenda := [.advance .irq] }

/-- 42_transmit_receive.md R237, 60_exceptions.md R327: after `Drop` the IRQ agent is Idle. -/
theorem test_drop_ends_the_handler :
    (advance .irq dropping).irqSeq = none ∧ (advance .irq dropping).trace = dropping.trace ++ [.drop packet] := by
  decide

/-- R236: `Deliver` has recorded its event, an edge starts no other drain, and the consumer's return ends it. -/
theorem test_deliver_completes_later :
    let s := advance .irq { dropping with irqSeq := some ⟨.drain, 9, ⟨packet, true⟩, .main⟩, irqPending := 1 }
    s.trace = dropping.trace ++ [.deliver packet] ∧ s.irqSeq ≠ none ∧ takeInterrupt s = s ∧
      (advance .irq s).irqSeq = none ∧ (advance .irq s).trace = s.trace := by
  decide

/-- What an IRQ agent that is the only busy one must meet. -/
theorem sequencersOk_of_irq {s : State} {b : Busy} (hh : s.hostSeq = []) (hi : s.irqSeq = some b)
    (hb : b.op = .drain) (hr : b.hasRead s.packetSize) (hf : s.fsm ≠ .uninitialized) : s.sequencersOk := by
  intro ag c hc _
  cases ag with
  | host n => simp [State.seqOf, hh, lookupSeq] at hc
  | irq =>
    obtain rfl : b = c := Option.some.inj (hi.symm.trans hc)
    refine ⟨by rw [hb]; rfl, hr, fun _ => hf, fun n hn => ?_⟩
    have hm := List.mem_of_getElem? hn
    rw [hb] at hm
    simp [programOf, handlerProgram, bodyDrain] at hm

theorem dropping_sequencersOk : dropping.sequencersOk :=
  sequencersOk_of_irq rfl rfl rfl ⟨fun reg w a h => by simp [programOf, handlerProgram, bodyDrain] at h, fun _ => rfl⟩
    (by decide)

theorem witness_PacketsHavePacketSizeBytes_moves :
    ∃ t, dropping.sequencersOk ∧ step dropping = .next t ∧ t.trace = dropping.trace ++ [.drop packet] :=
  ⟨_, dropping_sequencersOk, rfl, by decide⟩

/-- Reception possible; and impossible for each of its conditions. -/
theorem witness_ReceptionFillsTheRxFifo :
    ((listening.chip.config listening.layout).getLsbD 1 = true ∧
      (listening.chip.config listening.layout).getLsbD listening.layout.workingModeBit.toNat = true ∧
      listening.ce = true ∧ listening.chip.rxFifo.length < 3 ∧ (0 : BitVec 3).toNat ≤ 5 ∧
      (listening.chip.regByte listening.layout.regEnRxaddr).getLsbD (enabledBit listening.layout 0).toNat = true ∧
      packet.length = ((listening.chip.regByte (listening.layout.regRxPwP0 + (0 : BitVec 3).setWidth 5) &&&
        listening.layout.payloadSizeField.mask) >>> listening.layout.payloadSizeField.shift).toNat) ∧
    ¬((State.reset.chip.config State.reset.layout).getLsbD 1 = true) ∧ ¬(State.reset.ce = true) ∧
    ¬(6 : BitVec 3).toNat ≤ 5 ∧
    ¬(listening.chip.regByte listening.layout.regEnRxaddr).getLsbD (enabledBit listening.layout 2).toNat = true := by
  decide

theorem witness_TransmissionTakesTheTxHead :
    (inited.ce = true ∧ ((initedWith [(0, 0x0A)]).chip.config inited.layout).getLsbD 1 = true ∧
      ((initedWith [(0, 0x0A)]).chip.config inited.layout).getLsbD inited.layout.workingModeBit.toNat = false) ∧
    ¬(inited.chip.config inited.layout).getLsbD inited.layout.workingModeBit.toNat = false ∧
    inited.chip.held = 0 ∧ inited.chip.txFifo = [] ∧
    { inited.chip with txFifo := [[1]], held := 1 }.held = 0 + 1 ∧
    { inited.chip with txFifo := [[1]], held := 1 }.txFifo = [1] :: [] := by decide

theorem witness_BusErrorIsReturnedOnce :
    ∃ t, (Instr.send 0 [0x55]).isOperation = true ∧
      { inited with answers := [.reference, .reference, .fail] }.ready ∧
      exec (.send 0 [0x55]) { inited with answers := [.reference, .reference, .fail] } = .next t ∧ t.faulted = true :=
  ⟨_, by decide, ⟨rfl, rfl⟩, rfl, by decide⟩

/-- The drain run at once; a host agent's move and the IRQ agent's move into a failing transaction. -/
theorem witness_BusErrorIsReturnedOnce_drain_and_moves :
    ({ arrived with answers := [.fail] }.ready ∧
      (takeInterrupt { arrived with answers := [.fail] }).faulted = true) ∧
    ({ inited with
        answers := [.fail]
        hostSeq := [(7, ⟨.instr (.getChannel 0 []), 2, Locals.start, .main⟩)] }.seqOf (.host 7) =
      some ⟨.instr (.getChannel 0 []), 2, Locals.start, .main⟩ ∧
      (advance (.host 7) { inited with
        answers := [.fail]
        hostSeq := [(7, ⟨.instr (.getChannel 0 []), 2, Locals.start, .main⟩)] }).faulted = true) ∧
    ({ inited with answers := [.fail], irqSeq := some ⟨.drain, 4, Locals.start, .main⟩ }.seqOf .irq =
      some ⟨.drain, 4, Locals.start, .main⟩ ∧
      (advance .irq { inited with answers := [.fail], irqSeq := some ⟨.drain, 4, Locals.start, .main⟩ }).faulted =
        true) ∧ inited.faulted = false :=
  ⟨⟨⟨rfl, rfl⟩, by decide⟩, ⟨by decide, by decide⟩, ⟨by decide, by decide⟩, rfl⟩

theorem witness_HungTransactionHoldsForEver :
    (∃ t, { inited with answers := [.hang] }.ready ∧
      exec (.getChannel 0 []) { inited with answers := [.hang] } = .next t ∧ t.lock = .held (.host 0)) ∧
    ({ arrived with answers := [.hang] }.ready ∧ (takeInterrupt { arrived with answers := [.hang] }).lock = .held .irq) ∧
    { inited with lock := .held .irq }.lock = .held .irq ∧
    atAcquire ⟨.instr (.getChannel 0 []), 0, Locals.start, .main⟩ ∧ atAcquire ⟨.drain, 1, Locals.start, .main⟩ :=
  ⟨⟨_, ⟨rfl, rfl⟩, rfl, by decide⟩, ⟨⟨rfl, rfl⟩, by decide⟩, rfl, ⟨rfl, rfl⟩, ⟨rfl, rfl⟩⟩

theorem witness_OperationsChangeOnlyTheirFields :
    ∃ t, (Instr.setChannel 0 [0x28]).isOperation = true ∧ exec (.setChannel 0 [0x28]) inited = .next t ∧
      (3 : Nat) ≠ inited.requester ∧ isInit (.setChannel 0 [0x28]) = false :=
  ⟨_, by decide, rfl, by decide, by decide⟩

theorem witness_StepsNeverTakeBack :
    ∃ t, step { arrived with agenda := [.handler], consumerRegistered := true, faulted := true } = .next t ∧
      arrived.edgeArmed = true ∧ arrived.fsm ≠ .uninitialized :=
  ⟨_, rfl, by decide, by decide⟩

/-- GET_CHANNEL of agent 7 about to read, holding the exclusion. -/
def reading : State :=
  { inited with
    lock := .held (.host 7)
    hostSeq := [(7, ⟨.instr (.getChannel 0 []), 2, Locals.start, .main⟩)] }

/-- An agent that alone is busy, inside its exclusive part, and holds the exclusion. -/
theorem exclusive_of_host {s : State} {n : Nat} {b : Busy} (hl : s.lock = .held (.host n)) (hh : s.hostSeq = [(n, b)])
    (hi : s.irqSeq = none) (hb : b.holds = true) : s.exclusive := by
  intro ag
  rw [hl]
  constructor
  · intro h
    cases h
    exact ⟨b, by simp [State.seqOf, hh, lookupSeq], hb⟩
  · rintro ⟨c, hc, -⟩
    cases ag with
    | host m =>
      by_cases h : n = m
      · rw [h]
      · simp [State.seqOf, hh, lookupSeq, h] at hc
    | irq => simp [State.seqOf, hi] at hc

theorem reading_exclusive : reading.exclusive := exclusive_of_host rfl rfl rfl (by decide)

/-- GET_CHANNEL of agent 7 hung in its read, agent 3 waiting for the exclusion. -/
theorem witness_HungTransactionHoldsForEver_steps :
    ∃ t, { inited with
        lock := .held (.host 7)
        hostSeq := [(7, ⟨.instr (.getChannel 0 []), 2, Locals.start, .hung⟩)]
        agenda := [.request 3 [0x18, 0x00], .handler, .advance (.host 7)] }.exclusive ∧
      Sys2Proof.core.run 3 { inited with
        lock := .held (.host 7)
        hostSeq := [(7, ⟨.instr (.getChannel 0 []), 2, Locals.start, .hung⟩)]
        agenda := [.request 3 [0x18, 0x00], .handler, .advance (.host 7)] } = Host.Outcome.next t :=
  ⟨_, exclusive_of_host rfl rfl rfl (by decide), rfl⟩

theorem witness_WireEventsNeedTheExclusion :
    reading.exclusive ∧ (advance (.host 7) reading).trace = reading.trace ++ [.txn [0x05] 1 [0x28]] ∧
      hasWireEvent [.txn [0x05] 1 [0x28]] :=
  ⟨reading_exclusive, by decide, ⟨_, List.mem_singleton.mpr rfl, rfl⟩⟩

/-- `sequencersOk` of a block none of whose agents is busy. -/
theorem idle_sequencersOk {s : State} (hh : s.hostSeq = []) (hi : s.irqSeq = none) : s.sequencersOk := by
  intro ag b hb
  cases ag with
  | host n => simp [State.seqOf, hh, lookupSeq] at hb
  | irq => simp [State.seqOf, hi] at hb

theorem idle_packetSizeOk {s : State} (hp : s.packetSize ≤ 32) (hh : s.hostSeq = []) (hi : s.irqSeq = none) :
    s.packetSizeOk := by
  refine ⟨hp, fun ag b _ _ hb => ?_⟩
  cases ag with
  | host n => simp [State.seqOf, hh, lookupSeq] at hb
  | irq => simp [State.seqOf, hi] at hb

/-- A SEND presented, its first transaction; the same run at once; the handler's read. -/
theorem witness_FramesEmittedAreTheFour :
    inited.layout.wf = true ∧ { inited with agenda := [.request 7 [0x58, 0x01, 0x55]] }.packetSizeOk ∧
    { inited with agenda := [.request 7 [0x58, 0x01, 0x55]] }.sequencersOk ∧
    (∃ t es, step { inited with agenda := [.request 7 [0x58, 0x01, 0x55]] } = .next t ∧
      t.trace = inited.trace ++ es ∧ Event.txn [0xA0, 0x55] 0 [] ∈ es) ∧
    (∃ t es, exec (.send 0 [0x55]) inited = .next t ∧ t.trace = inited.trace ++ es ∧
      Event.txn [0xA0, 0x55] 0 [] ∈ es) ∧ inited.packetSize ≤ 32 ∧ (Instr.send 0 [0x55]).isOperation = true ∧
    (∃ es, (takeInterrupt arrived).trace = arrived.trace ++ es ∧ Event.txn [0x61] 13 packet ∈ es) :=
  ⟨by decide, idle_packetSizeOk (by decide) rfl rfl, idle_sequencersOk rfl rfl, ⟨_, _, rfl, rfl, by decide⟩,
    ⟨_, _, rfl, rfl, by decide⟩, by decide, by decide,
    ⟨[.ce false, .txn [0x61] 13 packet, .txn [0x27, 0x40] 0 [], .ce true, .drop packet], by decide, by decide⟩⟩

theorem witness_RunsAreSequencerMoves :
    decodeHost [0x18, 0x00] = .ok (.getChannel 0 []) ∧ inited.seqOf (.host inited.requester) = none ∧
    arrived.irqSeq = none := by decide

theorem witness_OnlyWireFramesStop : ∀ f rest, { inited with agenda := [.handler] }.agenda ≠ .wire f :: rest := by
  intro f rest h
  cases h

theorem idle_exclusive {s : State} (hl : s.lock = .free) (hh : s.hostSeq = []) (hi : s.irqSeq = none) :
    s.exclusive := by
  intro ag
  rw [hl]
  constructor
  · intro h
    cases h
  · rintro ⟨b, hb, -⟩
    cases ag with
    | host n => simp [State.seqOf, hh, lookupSeq] at hb
    | irq => simp [State.seqOf, hi] at hb

theorem witness_StepKeepsTheChipCanonical :
    ∃ t, { arrived with agenda := [.handler] }.chipOk ∧ step { arrived with agenda := [.handler] } = .next t :=
  ⟨_, ⟨by decide, by decide, by decide⟩, rfl⟩

theorem witness_StepKeepsMutualExclusion :
    ∃ t, { arrived with agenda := [.handler] }.exclusive ∧ step { arrived with agenda := [.handler] } = .next t :=
  ⟨_, idle_exclusive rfl rfl rfl, rfl⟩

theorem witness_StepKeepsTransmitInsideSend :
    ∃ t, { inited with agenda := [.request 7 [0x58, 0x01, 0x55]] }.exclusive ∧
      { inited with agenda := [.request 7 [0x58, 0x01, 0x55]] }.transmitOk ∧
      step { inited with agenda := [.request 7 [0x58, 0x01, 0x55]] } = .next t ∧ inited.lock = .free ∧
      inited.faulted = false :=
  ⟨_, idle_exclusive rfl rfl rfl, (fun h => by cases h), rfl, rfl, rfl⟩

theorem idle_agentsOk {s : State} (hh : s.hostSeq = []) : s.agentsOk := fun n b hb => by
  simp [State.seqOf, hh, lookupSeq] at hb

/-- The only host agent of the reset state issues an INIT of the largest packet size. -/
theorem witness_StepKeepsLatchPacketSizeAndAgentsInRange :
    (∃ t, { inited with agenda := [.sample false] }.latchOk ∧
      step { inited with agenda := [.sample false] } = .next t) ∧
    ∃ t, { State.reset with agenda := [.issue 0 [0x08, 0x04, 0x20, 0x7F, 0x03, 0x01]] }.packetSizeOk ∧
      { State.reset with agenda := [.issue 0 [0x08, 0x04, 0x20, 0x7F, 0x03, 0x01]] }.agentsOk ∧
      step { State.reset with agenda := [.issue 0 [0x08, 0x04, 0x20, 0x7F, 0x03, 0x01]] } = .next t ∧
      t.seqOf (.host 0) ≠ none :=
  ⟨⟨_, Nat.zero_le _, rfl⟩, ⟨_, idle_packetSizeOk (Nat.zero_le _) rfl rfl, idle_agentsOk rfl, rfl, by decide⟩⟩

theorem witness_StepKeepsSequencersValid :
    ∃ t, { inited with agenda := [.issue 7 [0x88, 0x01, 0xA1]] }.exclusive ∧
      { inited with agenda := [.issue 7 [0x88, 0x01, 0xA1]] }.packetSizeOk ∧
      { inited with agenda := [.issue 7 [0x88, 0x01, 0xA1]] }.sequencersOk ∧
      step { inited with agenda := [.issue 7 [0x88, 0x01, 0xA1]] } = .next t :=
  ⟨_, idle_exclusive rfl rfl rfl, idle_packetSizeOk (by decide) rfl rfl, idle_sequencersOk rfl rfl, rfl⟩

end Sys2Proof.Tests
end

section
/-! PROOFS. Where in its program an operation stands, and what one primitive changes. -/

namespace Sys2Proof.Machine

open Sys2Proof

/-! ### The phases of a program -/

/-- Where an operation stands to its exclusive part: before `Acquire()`, inside, or after `Release()`
(20_memory.md R97). -/
inductive Phase where
  | before
  | inside
  | after
deriving DecidableEq

/-- The phase in which a primitive stands. -/
def Prim.phase : Prim → Phase
  | .takeEdge | .acquire => .before
  | .respond _ | .deliverOrDrop => .after
  | _ => .inside

/-- The phase after it: `Acquire()` and `Release()` lead to the next one. -/
def Prim.nextPhase : Prim → Phase
  | .acquire => .inside
  | .release => .after
  | p => p.phase

/-- The phase after a primitive, none where the primitive has no place in that phase. -/
def Phase.next (φ : Phase) (p : Prim) : Option Phase := if p.phase = φ then some p.nextPhase else none

/-- The phase in which an operation is at index `k` of its program. -/
def Op.phaseAt (op : Op) (k : Nat) : Option Phase := ((programOf op).take k).foldlM Phase.next .before

theorem Phase.next_eq_some {φ φ' : Phase} {p : Prim} : φ.next p = some φ' ↔ p.phase = φ ∧ p.nextPhase = φ' := by
  simp [Phase.next]

theorem Prim.nextPhase_of_ne {p : Prim} (ha : p ≠ .acquire) (hr : p ≠ .release) : p.nextPhase = p.phase := by
  unfold Prim.nextPhase
  split
  · exact absurd rfl ha
  · exact absurd rfl hr
  · rfl

/-- The phase says which of `Acquire()` and `Release()` have been passed. -/
theorem Phase.foldlM_next_iff {past : List Prim} {φ : Phase} (h : past.foldlM Phase.next .before = some φ) :
    (.acquire ∈ past ↔ φ ≠ .before) ∧ (.release ∈ past ↔ φ = .after) := by
  induction past using List.reverseRecOn generalizing φ with
  | nil => cases h; simp
  | append_singleton past p ih =>
    simp only [List.foldlM_append, List.foldlM_cons, List.foldlM_nil, bind_pure] at h
    obtain ⟨ψ, hψ, hp⟩ := Option.bind_eq_some_iff.mp h
    obtain ⟨rfl, rfl⟩ := Phase.next_eq_some.mp hp
    obtain ⟨iha, ihr⟩ := ih hψ
    rw [List.mem_append, List.mem_append, List.mem_singleton, List.mem_singleton, iha, ihr]
    by_cases ha : p = .acquire
    · simp [ha, Prim.phase, Prim.nextPhase]
    by_cases hr : p = .release
    · simp [hr, Prim.phase, Prim.nextPhase]
    · simp [Prim.nextPhase_of_ne ha hr, Ne.symm ha, Ne.symm hr]

/-- The shell (41_device_config.md R190) puts a body of exclusive primitives between `Acquire()` and `Release()`. -/
theorem foldlM_next_shell {body : List Prim} (ret : Ret)
    (h : body.foldlM Phase.next .inside = some .inside) :
    (shell body ret).foldlM Phase.next .before = some .after := by
  simp [shell, List.foldlM_append, h, Phase.next, Prim.phase, Prim.nextPhase]

/-- Every program goes through the phases in order and does not end inside. -/
theorem programOf_phases (op : Op) :
    ∃ φ, (programOf op).foldlM Phase.next .before = some φ ∧ φ ≠ .inside := by
  cases op with
  | drain => exact ⟨.after, rfl, nofun⟩
  | instr i =>
    cases i
    case rRegister | wRegister | rRxPayload | wTxPayload | reservedOp00 | reservedOp0D | reservedOp0E | reservedOp0F |
        reservedOp18 | reservedOp19 | reservedOp1A | reservedOp1B | reservedOp1C | reservedOp1D | reservedOp1E |
        reservedOp1F => exact ⟨.before, rfl, nofun⟩
    all_goals exact ⟨.after, foldlM_next_shell _ rfl, nofun⟩

theorem Op.phaseAt_isSome (op : Op) (k : Nat) : ∃ φ, op.phaseAt k = some φ := by
  obtain ⟨ψ, h, -⟩ := programOf_phases op
  rw [← List.take_append_drop k (programOf op), List.foldlM_append] at h
  obtain ⟨φ, hφ, -⟩ := Option.bind_eq_some_iff.mp h
  exact ⟨φ, hφ⟩

theorem Op.phaseAt_zero (op : Op) : op.phaseAt 0 = some .before := rfl

/-- At a primitive's index an operation is in the phase of the primitive, and at the next index in the phase after
it. -/
theorem Op.phaseAt_getElem {op : Op} {k : Nat} {p : Prim} (hp : (programOf op)[k]? = some p) :
    op.phaseAt k = some p.phase ∧ op.phaseAt (k + 1) = some p.nextPhase := by
  obtain ⟨φ, hφ⟩ := op.phaseAt_isSome k
  obtain ⟨φ', hφ'⟩ := op.phaseAt_isSome (k + 1)
  have hn : φ.next p = some φ' := by
    rw [Op.phaseAt, List.take_add_one, hp, List.foldlM_append, ← Op.phaseAt, hφ] at hφ'
    simpa using hφ'
  obtain ⟨rfl, rfl⟩ := Phase.next_eq_some.mp hn
  exact ⟨hφ, hφ'⟩

theorem Op.phaseAt_end {op : Op} {k : Nat} {φ : Phase} (hk : (programOf op).length ≤ k)
    (hφ : op.phaseAt k = some φ) : φ ≠ .inside := by
  obtain ⟨ψ, h, hψ⟩ := programOf_phases op
  rw [Op.phaseAt, List.take_of_length_le hk, h] at hφ
  cases hφ
  exact hψ

theorem Busy.holds_iff_past {b : Busy} (hc : b.course = .main) :
    b.holds = true ↔ .acquire ∈ b.past ∧ .release ∉ b.past := by
  simp [Busy.holds, hc]

/-- An agent on its main course holds the exclusion exactly in the phase inside. -/
theorem Busy.holds_iff_inside {b : Busy} {φ : Phase} (hc : b.course = .main) (hφ : b.op.phaseAt b.step = some φ) :
    b.holds = true ↔ φ = .inside := by
  obtain ⟨ha, hr⟩ := Phase.foldlM_next_iff hφ
  rw [Busy.holds_iff_past hc, Busy.past, ha, hr]
  cases φ <;> simp

/-! ### What a primitive changes -/

/-- The state a primitive leaves; none where it waits. -/
def PrimOut.state : PrimOut → Option State
  | .done _ t => some t
  | .raise _ t => some t
  | .wait => none
  | .hung t => some t
  | .handedOver _ t => some t

/-- What a primitive can change of the sequencers, the exclusion, the latch and the packet size. -/
structure PrimFrame (p : Prim) (s t : State) : Prop where
  hostSeq : t.hostSeq = s.hostSeq
  irqSeq : t.irqSeq = s.irqSeq
  params : t.params = s.params
  lock : p ≠ .acquire → p ≠ .release → t.lock = s.lock
  irqPending : t.irqPending ≤ s.irqPending
  packetSize : t.packetSize = s.packetSize ∨ p = .setPacketSize t.packetSize

theorem PrimFrame.seqOf {p : Prim} {s t : State} (h : PrimFrame p s t) (ag : Agent) : t.seqOf ag = s.seqOf ag :=
  State.seqOf_congr h.hostSeq h.irqSeq ag

theorem PrimFrame.of_eq {s t : State} (p : Prim)
    (h : t =
      { s with
        fsm := t.fsm
        consumerRegistered := t.consumerRegistered
        edgeArmed := t.edgeArmed
        ce := t.ce
        faulted := t.faulted
        droppedCount := t.droppedCount
        chip := t.chip
        trace := t.trace
        answers := t.answers }) : PrimFrame p s t := by
  rw [h]
  exact ⟨rfl, rfl, rfl, fun _ _ => rfl, le_rfl, .inl rfl⟩

theorem PrimFrame.of_sameBlock {s t : State} (p : Prim) (h : SameBlock s t) : PrimFrame p s t :=
  ⟨h.hostSeq, h.irqSeq, h.params, fun _ _ => h.lock, h.irqPending.le, .inl h.packetSize⟩

theorem PrimFrame.of_busPrim {tx : List Byte} {n : Nat} {k : List Byte → Locals} {s t : State} (p : Prim)
    (h : (busPrim tx n k s).state = some t) : PrimFrame p s t := by
  unfold busPrim raiseBusError at h
  split at h <;> cases h
  · next hx => exact .of_sameBlock p (txn_completed hx).1
  · next hx =>
    rw [txn_failed hx]
    exact .of_eq p rfl
  · next hx =>
    rw [txn_hung hx]
    exact .of_eq p rfl

/-- What a primitive changes, whatever its outcome. -/
theorem execPrim_frame {ag : Agent} {p : Prim} {l : Locals} {s t : State}
    (h : (execPrim ag p l s).state = some t) : PrimFrame p s t := by
  cases p
  case memRead | writeField | writeAddr | clearRxReady | writeTx | readRx => exact .of_busPrim _ h
  case takeEdge => cases h; exact ⟨rfl, rfl, rfl, fun _ _ => rfl, Nat.sub_le _ _, .inl rfl⟩
  case setPacketSize => cases h; exact ⟨rfl, rfl, rfl, fun _ _ => rfl, le_rfl, .inr rfl⟩
  case release => cases h; exact ⟨rfl, rfl, rfl, fun _ h => absurd rfl h, le_rfl, .inl rfl⟩
  case acquire =>
    simp only [execPrim] at h
    split at h <;> cases h
    exact ⟨rfl, rfl, rfl, fun h => absurd rfl h, le_rfl, .inl rfl⟩
  case setCe | setFsm | arm | registerConsumer => cases h; exact .of_eq _ rfl
  case delay d => cases d <;> cases h <;> exact .of_eq _ rfl
  case respond => cases ag <;> cases h <;> exact .of_eq _ rfl
  case ceAfterSend | route => cases h; split <;> exact .of_eq _ rfl
  case checkFaulted | checkUninitialized | checkReceive | deliverOrDrop =>
    simp only [execPrim] at h
    split at h <;> cases h <;> exact .of_eq _ rfl

/-- Only a primitive that stands inside and leads nowhere else raises or hangs. -/
theorem execPrim_raise_or_hung {ag : Agent} {p : Prim} {l : Locals} {s t : State}
    (h : (∃ c, execPrim ag p l s = .raise c t) ∨ execPrim ag p l s = .hung t) :
    p.phase = .inside ∧ p.nextPhase = .inside := by
  cases p
  case acquire | deliverOrDrop =>
    simp only [execPrim] at h
    split at h <;> simp at h
  case respond => cases ag <;> simp [execPrim] at h
  case takeEdge | release => simp [execPrim] at h
  all_goals exact ⟨rfl, rfl⟩

/-- `Acquire()` completes only when the exclusion is free. -/
theorem execPrim_acquire_done {ag : Agent} {l l' : Locals} {s t : State}
    (h : execPrim ag .acquire l s = .done l' t) : s.lock = .free ∧ t = s.setLock (.held ag) := by
  simp only [execPrim] at h
  split at h <;> cases h
  exact ⟨‹_›, rfl⟩

end Sys2Proof.Machine
end

section
/-! PROOFS. What a step can do, said once. -/

namespace Sys2Proof.Machine

open Sys2Proof

/-! ### What the decoders give -/

theorem hostInstr_isHost (op : BitVec 5) (p : BitVec 3) (a : List Byte) : (hostInstr op p a).isHost = true := by
  have hmap : ∀ f ∈ hostMap, (f p a).isHost = true := by simp [hostMap, Instr.isHost]
  rw [hostInstr, List.getD_eq_getElem?_getD]
  cases h : hostMap[op.toNat]? with
  | none => rfl
  | some f => exact hmap f (List.mem_of_getElem? h)

theorem decodeHost_isHost {frame : List Byte} {i : Instr} (h : decodeHost frame = .ok i) : i.isHost = true := by
  unfold decodeHost at h
  split at h
  · split at h <;> cases h
    exact hostInstr_isHost _ _ _
  · cases h

theorem decodeWire_isHost {y : Layout} {frame : List Byte} {i : Instr} (h : decodeWire y frame = .ok i) :
    i.isHost = false := by
  unfold decodeWire at h
  repeat' split at h
  all_goals cases h
  all_goals rfl

/-! ### Validation -/

theorem firstError_eq_none {l : List (Option Status)} : firstError l = none ↔ ∀ o ∈ l, o = none := by
  induction l with
  | nil => simp [firstError]
  | cons o l ih => cases o <;> simp [firstError, ih]

/-! ### What a step can do -/

/-- Every agent and the block's own registers stay as they are; the chip, what the outside world does next, the trace
and the edge detector (60_exceptions.md R319) may change. -/
structure SameOperations (s t : State) : Prop where
  fsm : t.fsm = s.fsm
  packetSize : t.packetSize = s.packetSize
  consumerRegistered : t.consumerRegistered = s.consumerRegistered
  lock : t.lock = s.lock
  edgeArmed : t.edgeArmed = s.edgeArmed
  ce : t.ce = s.ce
  faulted : t.faulted = s.faulted
  droppedCount : t.droppedCount = s.droppedCount
  hostSeq : t.hostSeq = s.hostSeq
  irqSeq : t.irqSeq = s.irqSeq
  params : t.params = s.params
  irqPending : t.irqPending = s.irqPending ∨ t.irqPending ≤ s.params.irqPendingDepth

theorem SameOperations.of_eq {s t : State}
    (h : t =
      { s with
        chip := t.chip
        trace := t.trace
        agenda := t.agenda
        answers := t.answers
        requester := t.requester
        wireRx := t.wireRx
        free := t.free }) : SameOperations s t := by
  rw [h]
  exact ⟨rfl, rfl, rfl, rfl, rfl, rfl, rfl, rfl, rfl, rfl, rfl, .inl rfl⟩

theorem SameOperations.trans {s t u : State} (h : SameOperations s t) (h' : SameOperations t u) :
    SameOperations s u := by
  refine ⟨h'.fsm.trans h.fsm, h'.packetSize.trans h.packetSize, h'.consumerRegistered.trans h.consumerRegistered,
    h'.lock.trans h.lock, h'.edgeArmed.trans h.edgeArmed, h'.ce.trans h.ce, h'.faulted.trans h.faulted,
    h'.droppedCount.trans h.droppedCount, h'.hostSeq.trans h.hostSeq, h'.irqSeq.trans h.irqSeq,
    h'.params.trans h.params, ?_⟩
  rcases h'.irqPending with e | e
  · rw [e]
    exact h.irqPending
  · exact .inr (h.params ▸ e)

theorem SameOperations.seqOf {s t : State} (h : SameOperations s t) (ag : Agent) : t.seqOf ag = s.seqOf ag :=
  State.seqOf_congr h.hostSeq h.irqSeq ag

/-- A step, by what moves in it: nothing but the outside world, a host operation that runs or is set up, the handler,
or one agent by one primitive. `u` is the state in which it moves. -/
inductive StepCase (s : State) : State → Prop
  | outside {t : State} (h : SameOperations s t) : StepCase s t
  | request {u : State} {a : Nat} {i : Instr} (hu : SameOperations s u) (ha : u.takesFrom a = true)
      (hc : checkOf i u = none) : StepCase s (run (.host a) (.instr i) 0 (instrProgram i) Locals.start u)
  | issue {u : State} {a : Nat} {i : Instr} {c : Course} (hu : SameOperations s u) (ha : u.takesFrom a = true)
      (hc : c = .main ∧ checkOf i u = none ∨ ∃ e, c = .returning e) :
      StepCase s (u.setSeq (.host a) (some ⟨.instr i, 0, Locals.start, c⟩))
  | handler {u : State} (hu : SameOperations s u) (hi : u.irqSeq = none) :
      StepCase s (run .irq .drain 0 handlerProgram Locals.start u)
  | move {u : State} {ag : Agent} {b : Busy} (hu : SameOperations s u) (hb : u.seqOf ag = some b) :
      StepCase s (advanceBusy ag b u)
  | enter {u : State} (hu : SameOperations s u) (hi : u.irqSeq = none) :
      StepCase s (advanceBusy .irq ⟨.drain, 0, Locals.start, .main⟩ u)

theorem sampleIrq_sameOperations (level : Bool) (s : State) : SameOperations s (sampleIrq level s) := by
  unfold sampleIrq
  split
  · exact ⟨rfl, rfl, rfl, rfl, rfl, rfl, rfl, rfl, rfl, rfl, rfl, .inr (Nat.min_le_right _ _)⟩
  · exact ⟨rfl, rfl, rfl, rfl, rfl, rfl, rfl, rfl, rfl, rfl, rfl, .inl rfl⟩

theorem receive_sameOperations (p : BitVec 3) (d : List Byte) (s : State) : SameOperations s (receive p d s) := by
  unfold receive
  split <;> exact .of_eq rfl

theorem transmit_sameOperations (sent : Bool) (s : State) : SameOperations s (transmit sent s) := by
  unfold transmit
  split <;> exact .of_eq rfl

theorem runRequest_cases {s t u : State} {a : Nat} {frame : List Byte} (hu : SameOperations s u)
    (h : runRequest a frame u = .next t) : StepCase s t := by
  cases ha : u.takesFrom a with
  | false =>
    rw [runRequest_of_not_taken ha] at h
    cases h
    exact .outside hu
  | true =>
    cases hd : decodeHost frame with
    | error e =>
      simp only [runRequest, ha, hd, if_true] at h
      cases h
      exact .outside (hu.trans (.of_eq rfl))
    | ok i =>
      rw [runRequest_of_decodes ha hd, exec_host (decodeHost_isHost hd)] at h
      have hv : SameOperations s { u with requester := a } := hu.trans (.of_eq rfl)
      cases hc : checkOf i { u with requester := a } with
      | some c =>
        rw [hc] at h
        cases h
        exact .outside (hv.trans (.of_eq rfl))
      | none =>
        rw [hc] at h
        cases h
        exact .request hv ha hc

theorem runIssue_cases {s u : State} (a : Nat) (frame : List Byte) (hu : SameOperations s u) :
    StepCase s (runIssue a frame u) := by
  cases ha : u.takesFrom a with
  | false =>
    rw [runIssue_of_not_taken ha]
    exact .outside hu
  | true =>
    rw [runIssue_of_takes ha]
    unfold issue
    split
    · exact .outside (hu.trans (.of_eq rfl))
    · split
      · exact .issue hu ha (.inr ⟨_, rfl⟩)
      · exact .issue hu ha (.inl ⟨rfl, ‹_›⟩)

theorem advance_cases {s u : State} (ag : Agent) (hu : SameOperations s u) : StepCase s (advance ag u) := by
  unfold advance
  split
  · exact .move hu ‹_›
  · split
    · exact .outside hu
    · split
      · exact .enter hu ‹_›
      · exact .outside hu

theorem takeInterrupt_cases {s u : State} (hu : SameOperations s u) : StepCase s (takeInterrupt u) := by
  unfold takeInterrupt
  split
  · next h => exact .handler hu h.1
  · exact .outside hu

theorem runWire_cases {s t u : State} {frame : List Byte} (hu : SameOperations s u)
    (h : runWire frame u = .next t) : StepCase s t := by
  unfold runWire at h
  split at h
  · next i hd =>
    obtain ⟨v, hv, e⟩ := exec_wire (decodeWire_isHost hd) u
    rw [hv] at h
    cases h
    rw [e]
    exact .outside (hu.trans (.of_eq rfl))
  · cases h

/-- What a step can do. -/
theorem step_cases {s t : State} (h : step s = .next t) : StepCase s t := by
  unfold step at h
  split at h
  · cases h
    exact .outside (.of_eq rfl)
  · next i rest _ =>
    have hu : SameOperations s { s with agenda := rest } := .of_eq rfl
    cases i with
    | request a frame => exact runRequest_cases hu h
    | wire frame => exact runWire_cases hu h
    | issue a frame => cases h; exact runIssue_cases a frame hu
    | advance ag => cases h; exact advance_cases ag hu
    | handler => cases h; exact takeInterrupt_cases hu
    | sample level => cases h; exact .outside (hu.trans (sampleIrq_sameOperations _ _))
    | sampleLine => cases h; exact .outside (hu.trans (sampleIrq_sameOperations _ _))
    | reception p d => cases h; exact .outside (hu.trans (receive_sameOperations p d _))
    | holdPasses => cases h; exact .outside (hu.trans (.of_eq rfl))
    | transmission sent => cases h; exact .outside (hu.trans (transmit_sameOperations sent _))
    | chipChange c => cases h; exact .outside (hu.trans (.of_eq rfl))

end Sys2Proof.Machine
end

section
/-! PROOFS. Every step keeps mutual exclusion (10_state.md R35, 20_memory.md R97). -/

namespace Sys2Proof.Machine

open Sys2Proof

/-- Mutual exclusion while agent `ag` is on its way: it holds the exclusion exactly if `inside`, whatever its
sequencer still says; of every other agent the sequencer says it. -/
structure State.ExclusiveFor (s : State) (ag : Agent) (inside : Prop) : Prop where
  own : s.lock = .held ag ↔ inside
  others : ∀ ag', ag' ≠ ag → (s.lock = .held ag' ↔ ∃ b, s.seqOf ag' = some b ∧ b.holds = true)

theorem State.exclusive.of_busy {s : State} {ag : Agent} {b : Busy} {inside : Prop} (h : s.exclusive)
    (hb : s.seqOf ag = some b) (hi : b.holds = true ↔ inside) : s.ExclusiveFor ag inside :=
  ⟨by simpa [hb, hi] using h ag, fun ag' _ => h ag'⟩

theorem State.exclusive.of_idle {s : State} {ag : Agent} {inside : Prop} (h : s.exclusive)
    (hs : s.seqOf ag = none) (hi : ¬inside) : s.ExclusiveFor ag inside :=
  ⟨by simpa [hs, hi] using h ag, fun ag' _ => h ag'⟩

namespace State.ExclusiveFor

variable {s t : State} {ag : Agent} {inside inside' : Prop}

theorem setSeq {o : Option Busy} (h : s.ExclusiveFor ag inside) (ho : inside ↔ ∃ b, o = some b ∧ b.holds = true) :
    (s.setSeq ag o).exclusive := by
  intro ag'
  rw [State.setSeq_lock]
  by_cases e : ag' = ag
  · subst e
    rw [State.seqOf_setSeq_self]
    exact h.own.trans ho
  · rw [State.seqOf_setSeq_ne s o e]
    exact h.others ag' e

theorem setSeq_some {b : Busy} (h : s.ExclusiveFor ag inside) (hb : b.holds = true ↔ inside) :
    (s.setSeq ag (some b)).exclusive :=
  h.setSeq (by simp [hb])

theorem setSeq_none (h : s.ExclusiveFor ag inside) (hi : ¬inside) : (s.setSeq ag none).exclusive :=
  h.setSeq (by simp [hi])

theorem exclusive_of_idle (h : s.ExclusiveFor ag inside) (hi : ¬inside) (hs : s.seqOf ag = none) :
    s.exclusive := by
  rw [← State.setSeq_none_of_idle hs]
  exact h.setSeq_none hi

theorem congr (h : s.ExclusiveFor ag inside) (hl : t.lock = s.lock) (hs : ∀ ag', t.seqOf ag' = s.seqOf ag') :
    t.ExclusiveFor ag inside :=
  ⟨by rw [hl]; exact h.own, fun ag' e => by rw [hl, hs]; exact h.others ag' e⟩

/-- Where the exclusion is free no other agent is inside, so `ag` may take it. -/
theorem acquire (h : s.ExclusiveFor ag inside) (hl : s.lock = .free) (hi : inside') :
    (s.setLock (.held ag)).ExclusiveFor ag inside' :=
  ⟨by simp [hi], fun ag' e => by simpa [hl, Ne.symm e] using h.others ag' e⟩

/-- Where `ag` holds the exclusion no other agent is inside, so none is when `ag` frees it. -/
theorem release (h : s.ExclusiveFor ag inside) (hi : inside) (hi' : ¬inside') :
    (s.setLock .free).ExclusiveFor ag inside' :=
  ⟨by simp [hi'], fun ag' e => by simpa [h.own.mpr hi, Ne.symm e] using h.others ag' e⟩

theorem primFrame {p : Prim} (h : s.ExclusiveFor ag inside) (hf : PrimFrame p s t) (ha : p ≠ .acquire)
    (hr : p ≠ .release) : t.ExclusiveFor ag inside :=
  h.congr (hf.lock ha hr) hf.seqOf

/-- A primitive that completes in its phase leads to the next one. -/
theorem execPrim_done {p : Prim} {l l' : Locals} (h : s.ExclusiveFor ag (p.phase = .inside))
    (he : execPrim ag p l s = .done l' t) : t.ExclusiveFor ag (p.nextPhase = .inside) := by
  by_cases ha : p = .acquire
  · subst ha
    obtain ⟨hl, rfl⟩ := execPrim_acquire_done he
    exact h.acquire hl rfl
  by_cases hr : p = .release
  · subst hr
    cases he
    exact h.release rfl nofun
  · rw [Prim.nextPhase_of_ne ha hr]
    exact h.primFrame (execPrim_frame (by rw [he]; rfl)) ha hr

/-- One that raises or hangs leaves the exclusion with its agent. -/
theorem execPrim_raise_or_hung {p : Prim} {l : Locals} (h : s.ExclusiveFor ag (p.phase = .inside))
    (he : (∃ c, execPrim ag p l s = .raise c t) ∨ execPrim ag p l s = .hung t) : t.ExclusiveFor ag True := by
  obtain ⟨hp, hn⟩ := Machine.execPrim_raise_or_hung he
  have hf : PrimFrame p s t := by
    rcases he with ⟨c, he⟩ | he <;> exact execPrim_frame (by rw [he]; rfl)
  simp only [hp] at h
  exact h.primFrame hf (by rintro rfl; cases hp) (by rintro rfl; cases hn)

/-- One that hands its packet over stands outside, and so does the next. -/
theorem execPrim_handedOver {p : Prim} {l l' : Locals} (h : s.ExclusiveFor ag (p.phase = .inside))
    (he : execPrim ag p l s = .handedOver l' t) :
    p.nextPhase = .after ∧ t.ExclusiveFor ag (p.nextPhase = .inside) := by
  obtain ⟨rfl, -, -, rfl⟩ := Machine.execPrim_handedOver he
  exact ⟨rfl, h.congr rfl (State.emit_seqOf _ _)⟩

end State.ExclusiveFor

/-! ### Moves and runs -/

@[simp] theorem returnCode_lock (ag : Agent) (op : Op) (c : Status) (s : State) :
    (returnCode ag op c s).lock = s.lock := by
  unfold returnCode
  split
  · split <;> rfl
  · rfl

@[simp] theorem returnCode_seqOf (ag : Agent) (op : Op) (c : Status) (s : State) (ag' : Agent) :
    (returnCode ag op c s).seqOf ag' = s.seqOf ag' := by
  unfold returnCode
  split
  · split
    · exact State.respond_seqOf _ _ _ _ _
    · rfl
  · rfl

/-- A run of an Idle agent's operation, from any index of its program, ends in mutual exclusion. -/
theorem run_exclusive {ag : Agent} {op : Op} {ps : List Prim} {k : Nat} {l : Locals} {s : State} {φ : Phase}
    (hps : (programOf op).drop k = ps) (hi : s.seqOf ag = none) (hφ : op.phaseAt k = some φ)
    (h : s.ExclusiveFor ag (φ = .inside)) : (run ag op k ps l s).exclusive := by
  induction ps generalizing k l s φ with
  | nil => exact h.exclusive_of_idle (Op.phaseAt_end (List.drop_eq_nil_iff.mp hps) hφ) hi
  | cons p ps ih =>
    have hp : (programOf op)[k]? = some p := by rw [← List.head?_drop, hps]; rfl
    have hps' : (programOf op).drop (k + 1) = ps := by rw [← List.tail_drop, hps]; rfl
    obtain ⟨hk, hk'⟩ := Op.phaseAt_getElem hp
    obtain rfl : p.phase = φ := Option.some.inj (hk.symm.trans hφ)
    have hseq {t : State} (he : (execPrim ag p l s).state = some t) : t.seqOf ag = none :=
      ((execPrim_frame he).seqOf ag).trans hi
    cases he : execPrim ag p l s with
    | done l' t =>
      rw [run_done he]
      exact ih hps' (hseq (by rw [he]; rfl)) hk' (h.execPrim_done he)
    | raise c t =>
      rw [run_raise he]
      have ht := (h.execPrim_raise_or_hung (.inl ⟨c, he⟩)).release trivial not_false
      refine (ht.congr (returnCode_lock _ _ _ _) (returnCode_seqOf _ _ _ _)).exclusive_of_idle not_false ?_
      rw [returnCode_seqOf, State.setLock_seqOf]
      exact hseq (by rw [he]; rfl)
    | wait =>
      rw [run_wait he]
      exact h.setSeq_some (Busy.holds_iff_inside rfl hφ)
    | hung t =>
      rw [run_hung he]
      exact (h.execPrim_raise_or_hung (.inr he)).setSeq_some (by simp [Busy.holds])
    | handedOver l' t =>
      rw [run, he]
      exact ih hps' (hseq (by rw [he]; rfl)) hk' (h.execPrim_handedOver he).2

/-- A move of an agent at `b`, whether its sequencer says so already or it is entering its handler. -/
theorem advanceBusy_exclusive {ag : Agent} {b : Busy} {s : State} (h : s.ExclusiveFor ag (b.holds = true))
    (hs : s.exclusive) : (advanceBusy ag b s).exclusive := by
  unfold advanceBusy
  cases hc : b.course with
  | hung => exact hs
  | delivering => exact h.setSeq_none (by simp [Busy.holds, hc])
  | returning c =>
    exact (h.congr (returnCode_lock _ _ _ _) (returnCode_seqOf _ _ _ _)).setSeq_none (by simp [Busy.holds, hc])
  | raised c =>
    have hf : (s.setLock .free).ExclusiveFor ag False := h.release (by simp [Busy.holds, hc]) not_false
    dsimp only
    split
    · exact hf.setSeq_some (by simp [Busy.holds])
    · exact hf.setSeq_none not_false
  | main =>
    dsimp only
    cases hp : (programOf b.op)[b.step]? with
    | none =>
      obtain ⟨φ, hφ⟩ := b.op.phaseAt_isSome b.step
      exact h.setSeq_none fun hh =>
        Op.phaseAt_end (List.getElem?_eq_none_iff.mp hp) hφ ((Busy.holds_iff_inside hc hφ).mp hh)
    | some p =>
      obtain ⟨hk, hk'⟩ := Op.phaseAt_getElem hp
      rw [propext (Busy.holds_iff_inside hc hk)] at h
      dsimp only
      cases he : execPrim ag p b.locals s with
      | done l t =>
        dsimp only
        split
        · exact (h.execPrim_done he).setSeq_some (Busy.holds_iff_inside rfl hk')
        · exact (h.execPrim_done he).setSeq_none (Op.phaseAt_end (by omega) hk')
      | raise c t => exact (h.execPrim_raise_or_hung (.inl ⟨c, he⟩)).setSeq_some (by simp [Busy.holds])
      | wait => exact hs
      | hung t => exact (h.execPrim_raise_or_hung (.inr he)).setSeq_some (by simp [Busy.holds])
      | handedOver l t =>
        obtain ⟨hn, ht⟩ := h.execPrim_handedOver he
        exact ht.setSeq_some (by simp [Busy.holds, hn])

/-! ### The step -/

theorem State.exclusive.of_sameOperations {s t : State} (h : s.exclusive) (hu : SameOperations s t) :
    t.exclusive := by
  intro ag
  rw [hu.lock, hu.seqOf]
  exact h ag

/-- Settles O56: each way a step can go keeps mutual exclusion, because every operation goes through the phases of its
program in order. -/
theorem stepKeepsMutualExclusion : Obligations.StepKeepsMutualExclusion := by
  intro s t hs h
  cases step_cases h with
  | outside hu => exact hs.of_sameOperations hu
  | request hu ha hc =>
    have hi := ((State.takesFrom_iff _ _).mp ha).2
    exact run_exclusive rfl hi (Op.phaseAt_zero _) ((hs.of_sameOperations hu).of_idle hi nofun)
  | issue hu ha hc =>
    have hi := ((State.takesFrom_iff _ _).mp ha).2
    refine ((hs.of_sameOperations hu).of_idle hi not_false).setSeq_some ?_
    rcases hc with ⟨rfl, -⟩ | ⟨e, rfl⟩ <;> simp [Busy.holds, Busy.past]
  | handler hu hi =>
    exact run_exclusive (ag := .irq) (op := .drain) rfl hi (Op.phaseAt_zero _)
      ((hs.of_sameOperations hu).of_idle hi nofun)
  | move hu hb =>
    have hs' := hs.of_sameOperations hu
    exact advanceBusy_exclusive (hs'.of_busy hb Iff.rfl) hs'
  | enter hu hi =>
    have hs' := hs.of_sameOperations hu
    exact advanceBusy_exclusive (ag := .irq) (hs'.of_idle hi nofun) hs'

end Sys2Proof.Machine
end

section
/-! PROOFS. Every step keeps the latch, the packet size and the busy host agents in range (10_state.md R33, R36,
00_scope.md R11). -/

namespace Sys2Proof.Machine

open Sys2Proof

/-! ### What an operation changes of them -/

/-- What a run or a move of `ag`'s operation `op` can change: the latch may lose edges, the packet size becomes one the
program writes, and the agent's own sequencer stays at this operation. `main`: it was on its main course. -/
structure OperationFrame (ag : Agent) (op : Op) (main : Prop) (s t : State) : Prop where
  params : t.params = s.params
  irqPending : t.irqPending ≤ s.irqPending
  packetSize : t.packetSize = s.packetSize ∨ main ∧ .setPacketSize t.packetSize ∈ programOf op
  seqOf : ∀ ag' b, t.seqOf ag' = some b →
    s.seqOf ag' = some b ∨ ag' = ag ∧ b.op = op ∧ (b.course = .main → main)

namespace OperationFrame

variable {ag : Agent} {op : Op} {main : Prop} {s t u : State}

theorem of_same (hp : t.params = s.params) (hi : t.irqPending = s.irqPending) (hz : t.packetSize = s.packetSize)
    (hs : ∀ ag', t.seqOf ag' = s.seqOf ag') : OperationFrame ag op main s t :=
  ⟨hp, hi.le, .inl hz, fun ag' _ hb => .inl ((hs ag').symm.trans hb)⟩

theorem refl (s : State) : OperationFrame ag op main s s := of_same rfl rfl rfl fun _ => rfl

theorem trans (h : OperationFrame ag op main s t) (h' : OperationFrame ag op main t u) :
    OperationFrame ag op main s u where
  params := h'.params.trans h.params
  irqPending := h'.irqPending.trans h.irqPending
  packetSize := by
    rcases h'.packetSize with e | e
    · rw [e]
      exact h.packetSize
    · exact .inr e
  seqOf ag' b hb := (h'.seqOf ag' b hb).elim (h.seqOf ag' b) .inr

theorem of_setSeq (s : State) {o : Option Busy}
    (ho : ∀ b, o = some b → b.op = op ∧ (b.course = .main → main)) :
    OperationFrame ag op main s (s.setSeq ag o) := by
  refine ⟨by simp, by simp, .inl (by simp), fun ag' b hb => ?_⟩
  by_cases e : ag' = ag
  · subst e
    rw [State.seqOf_setSeq_self] at hb
    exact .inr ⟨rfl, ho b hb⟩
  · rw [State.seqOf_setSeq_ne s o e] at hb
    exact .inl hb

theorem of_setLock (s : State) (l : Lock) : OperationFrame ag op main s (s.setLock l) :=
  of_same rfl rfl rfl (State.setLock_seqOf s l)

theorem of_returnCode (c : Status) (s : State) : OperationFrame ag op main s (returnCode ag op c s) := by
  refine of_same ?_ ?_ ?_ (returnCode_seqOf ag op c s)
  all_goals
    unfold returnCode
    repeat' split
    all_goals rfl

theorem of_execPrim {p : Prim} {l : Locals} (hm : main) (hp : p ∈ programOf op)
    (h : (execPrim ag p l s).state = some t) : OperationFrame ag op main s t := by
  have hf := execPrim_frame h
  refine ⟨hf.params, hf.irqPending, hf.packetSize.imp_right ?_, fun ag' b hb => .inl ((hf.seqOf ag').symm.trans hb)⟩
  rintro rfl
  exact ⟨hm, hp⟩

theorem of_run {ps : List Prim} {k : Nat} {l : Locals} (hps : ∀ p ∈ ps, p ∈ programOf op) :
    OperationFrame ag op True s (run ag op k ps l s) := by
  induction ps generalizing k l s with
  | nil => exact refl s
  | cons p ps ih =>
    have hp := hps p (by simp)
    have ih {k l s} := @ih s k l fun q hq => hps q (by simp [hq])
    cases he : execPrim ag p l s with
    | done l' t =>
      rw [run_done he]
      exact (of_execPrim trivial hp (by rw [he]; rfl)).trans ih
    | raise c t =>
      rw [run_raise he]
      exact (of_execPrim trivial hp (by rw [he]; rfl)).trans ((of_setLock t .free).trans (of_returnCode c _))
    | wait =>
      rw [run_wait he]
      exact of_setSeq s (by simp)
    | hung t =>
      rw [run_hung he]
      exact (of_execPrim trivial hp (by rw [he]; rfl)).trans (of_setSeq t (by simp))
    | handedOver l' t =>
      rw [run, he]
      exact (of_execPrim trivial hp (by rw [he]; rfl)).trans ih

theorem of_advanceBusy (ag : Agent) (b : Busy) (s : State) :
    OperationFrame ag b.op (b.course = .main) s (advanceBusy ag b s) := by
  unfold advanceBusy
  cases hc : b.course with
  | hung => exact refl s
  | delivering => exact of_setSeq s nofun
  | returning c => exact (of_returnCode c s).trans (of_setSeq _ nofun)
  | raised c =>
    dsimp only
    split
    · exact (of_setLock s .free).trans (of_setSeq _ (by simp))
    · exact (of_setLock s .free).trans (of_setSeq _ nofun)
  | main =>
    dsimp only
    cases hp : (programOf b.op)[b.step]? with
    | none => exact of_setSeq s nofun
    | some p =>
      dsimp only
      have hp := List.mem_of_getElem? hp
      cases he : execPrim ag p b.locals s with
      | done l t =>
        dsimp only
        split
        · exact (of_execPrim rfl hp (by rw [he]; rfl)).trans (of_setSeq t (by simp))
        · exact (of_execPrim rfl hp (by rw [he]; rfl)).trans (of_setSeq t nofun)
      | raise c t => exact (of_execPrim rfl hp (by rw [he]; rfl)).trans (of_setSeq t (by simp))
      | wait => exact refl s
      | hung t => exact (of_execPrim rfl hp (by rw [he]; rfl)).trans (of_setSeq t (by simp))
      | handedOver l t => exact (of_execPrim rfl hp (by rw [he]; rfl)).trans (of_setSeq t (by simp))

end OperationFrame

/-! ### The packet size an operation writes -/

/-- If it is an INIT, its packet size is in 0..32. -/
def Op.SizeInRange (op : Op) : Prop := ∀ p a, op = .instr (.init p a) → argNat a 0 ≤ Config.payloadMax

/-- An operation that passed validation has a packet size in range (60_exceptions.md R323). -/
theorem sizeInRange_of_checkOf {i : Instr} {s : State} (h : checkOf i s = none) : (Op.instr i).SizeInRange := by
  rintro p a e
  cases e
  have hn : payloadSizeCheck (argNat a 0) = none := firstError_eq_none.mp h _ (by simp)
  simpa [payloadSizeCheck, errorIf] using hn

theorem setPacketSize_mem_shell {n : Nat} {body : List Prim} {ret : Ret}
    (h : .setPacketSize n ∈ shell body ret) : .setPacketSize n ∈ body := by
  simpa [shell] using h

/-- Only INIT writes the packet size, the one it was given (41_device_config.md R192). -/
theorem setPacketSize_mem_programOf {op : Op} {n : Nat} (h : .setPacketSize n ∈ programOf op) :
    ∃ p a, op = .instr (.init p a) ∧ n = argNat a 0 := by
  cases op with
  | drain => simp [programOf, handlerProgram, bodyDrain] at h
  | instr i =>
    cases i
    case init p a =>
      have h := setPacketSize_mem_shell h
      exact ⟨p, a, rfl, by simpa [bodyInit, rmw1, setWorkingMode] using h⟩
    all_goals
      simp [programOf, instrProgram, shell, rmw1, rmwAddr, setWorkingMode, bodySetChannel, bodyGetChannel,
        bodySetOutputPower, bodyGetOutputPower, bodySetDataRate, bodyGetDataRate, bodySetPowerMode, bodyGetPowerMode,
        bodyGetWorkingMode, bodySend, bodyRegisterConsumer, bodyPipeGetAddress, bodyPipeSetAddress, bodyPipeGetAutoack,
        bodyPipeSetAutoack, bodyPipeGetPayloadSize, bodyPipeSetPayloadSize, bodyPipeGetEnabled,
        bodyPipeSetEnabled] at h

theorem Op.SizeInRange.of_mem {op : Op} {n : Nat} (h : op.SizeInRange) (hn : .setPacketSize n ∈ programOf op) :
    n ≤ Config.payloadMax := by
  obtain ⟨p, a, e, rfl⟩ := setPacketSize_mem_programOf hn
  exact h p a e

/-! ### The step -/

/-- Whose operation a step moves: that of a busy agent, one the host port takes, or the handler's. `main`: it is on its
main course. -/
inductive Origin (s : State) : Agent → Op → Prop → Prop
  | busy {ag : Agent} {b : Busy} (hb : s.seqOf ag = some b) : Origin s ag b.op (b.course = .main)
  | accepted {a : Nat} {i : Instr} {main : Prop} (ha : a < s.params.nHostAgents) (hc : main → checkOf i s = none) :
      Origin s (.host a) (.instr i) main
  | handler {main : Prop} : Origin s .irq .drain main

/-- A step moves no operation, or just one. -/
theorem step_frame {s t : State} (h : step s = .next t) :
    SameOperations s t ∨
      ∃ u ag op main, SameOperations s u ∧ Origin u ag op main ∧ OperationFrame ag op main u t := by
  cases step_cases h with
  | outside hu => exact .inl hu
  | request hu ha hc =>
    have ha := ((State.takesFrom_iff _ _).mp ha).1
    exact .inr ⟨_, _, .instr _, _, hu, .accepted ha fun _ => hc, .of_run fun _ hp => hp⟩
  | @issue u a i c hu ha hc =>
    have ha := ((State.takesFrom_iff _ _).mp ha).1
    refine .inr ⟨u, _, .instr i, checkOf i u = none, hu, .accepted ha id, .of_setSeq _ ?_⟩
    rintro b ⟨⟩
    exact ⟨rfl, fun e => hc.elim And.right fun ⟨c, hr⟩ => nomatch hr.symm.trans e⟩
  | handler hu hi => exact .inr ⟨_, _, .drain, _, hu, .handler, .of_run fun _ hp => hp⟩
  | move hu hb => exact .inr ⟨_, _, _, _, hu, .busy hb, .of_advanceBusy _ _ _⟩
  | enter hu hi => exact .inr ⟨_, _, .drain, _, hu, .handler, .of_advanceBusy _ ⟨.drain, 0, Locals.start, .main⟩ _⟩

theorem step_latchOk {s t : State} (hs : s.latchOk) (h : step s = .next t) : t.latchOk := by
  have of_same {u : State} (hu : SameOperations s u) : u.latchOk := by
    unfold State.latchOk at hs ⊢
    rw [hu.params]
    rcases hu.irqPending with e | e
    · rw [e]
      exact hs
    · exact e
  rcases step_frame h with hu | ⟨u, ag, op, main, hu, -, hf⟩
  · exact of_same hu
  · unfold State.latchOk
    rw [hf.params]
    exact hf.irqPending.trans (of_same hu)

theorem step_packetSizeOk {s t : State} (hs : s.packetSizeOk) (h : step s = .next t) : t.packetSizeOk := by
  have of_same {u : State} (hu : SameOperations s u) : u.packetSizeOk := by
    refine ⟨hu.packetSize ▸ hs.1, fun ag b p a hb => hs.2 ag b p a ?_⟩
    rw [← hu.seqOf]
    exact hb
  rcases step_frame h with hu | ⟨u, ag, op, main, hu, ho, hf⟩
  · exact of_same hu
  obtain ⟨hsize, hseq⟩ := of_same hu
  have hop (hm : main) : op.SizeInRange := by
    cases ho with
    | busy hb => exact fun p a e => hseq ag _ p a hb e hm
    | accepted _ hc => exact sizeInRange_of_checkOf (hc hm)
    | handler => exact nofun
  refine ⟨?_, fun ag' b p a hb he hc => ?_⟩
  · rcases hf.packetSize with e | ⟨hm, hmem⟩
    · rw [e]
      exact hsize
    · exact (hop hm).of_mem hmem
  · rcases hf.seqOf ag' b hb with hb | ⟨-, e, hm⟩
    · exact hseq ag' b p a hb he hc
    · exact hop (hm hc) p a (e.symm.trans he)

theorem step_agentsOk {s t : State} (hs : s.agentsOk) (h : step s = .next t) : t.agentsOk := by
  have of_same {u : State} (hu : SameOperations s u) : u.agentsOk := by
    intro n b hb
    rw [hu.params]
    rw [hu.seqOf] at hb
    exact hs n b hb
  rcases step_frame h with hu | ⟨u, ag, op, main, hu, ho, hf⟩
  · exact of_same hu
  intro n b hb
  rw [hf.params]
  rcases hf.seqOf _ b hb with hb | ⟨e, -, -⟩
  · exact of_same hu n b hb
  · cases ho with
    | busy hb => exact of_same hu n _ (e ▸ hb)
    | accepted ha _ => cases e; exact ha
    | handler => cases e

/-- Settles O58: a step moves at most one operation, which loses edges, writes a validated packet size and belongs to a
host agent of the block. -/
theorem stepKeepsLatchPacketSizeAndAgentsInRange : Obligations.StepKeepsLatchPacketSizeAndAgentsInRange :=
  ⟨fun _ _ => step_latchOk, fun _ _ => step_packetSizeOk, fun _ _ => step_agentsOk⟩

end Sys2Proof.Machine
end

section
/-! PROOFS. What a GET does when the reference chip answers (10_state.md R64, R65, 20_memory.md R106). -/

namespace Sys2Proof.Machine

open Sys2Proof Sys2Proof.Claims

theorem State.onReference.setLock {s : State} (h : s.onReference) (l : Lock) : (s.setLock l).onReference := h

/-- A full-width register read the reference chip answers is one event and returns the register (20_memory.md R108). -/
theorem txn_read {s : State} (h : s.onReference) (reg : Reg) :
    txn (s.readFrame reg) (regWidth s.layout (s.layout.addr reg)) s =
      .completed (s.chip.readReg s.layout (s.layout.addr reg))
        (s.emit (readEvent s.layout (s.layout.addr reg) (s.chip.readReg s.layout (s.layout.addr reg)))) := by
  obtain ⟨ha, hy⟩ := h
  rw [txn_eq_completed]
  refine ⟨s, busOutcome_read ha hy _, ?_⟩
  rw [readEvent, Chip.length_readReg]
  rfl

theorem run_memRead_reference {ag : Agent} {op : Op} {k n : Nat} {ps : List Prim} {l : Locals} {s : State} {reg : Reg}
    (h : s.onReference) (hn : regWidth s.layout (s.layout.addr reg) = n) :
    run ag op k (.memRead reg n :: ps) l s =
      run ag op (k + 1) ps { l with bytes := s.chip.readReg s.layout (s.layout.addr reg) }
        (s.emit (readEvent s.layout (s.layout.addr reg) (s.chip.readReg s.layout (s.layout.addr reg)))) := by
  subst hn
  rw [run_memRead, txn_read h, afterTxn_completed]

/-- A GET's events over the exclusion taken and freed are the state the statements name. -/
theorem afterGet_eq {s : State} (hl : s.lock = .free) (reg : BitVec 5) (data : List Byte) (a : Agent) :
    (((s.setLock (.held a)).emit (readEvent s.layout reg (s.chip.readReg s.layout reg))).setLock .free).respond
      s.requester .ok data = afterGet s reg data := by
  simp [State.setLock, State.respond, State.emit, afterGet, ← hl]

/-- A GET whose validation passes reads its register with the exclusion held and answers with what it read. -/
theorem exec_get {i : Instr} {reg : Reg} {n : Nat} {ret : Ret} {s : State} (hi : i.isHost = true)
    (hp : instrProgram i = shell [.memRead reg n] ret) (hn : regWidth s.layout (s.layout.addr reg) = n)
    (hs : s.configured) (hr : s.onReference) (hc : checkOf i s = none) :
    exec i s = .next (afterGet s (s.layout.addr reg)
      (ret.data s.layout ⟨s.chip.readReg s.layout (s.layout.addr reg), false⟩)) := by
  obtain ⟨⟨hl, hf⟩, -⟩ := hs
  rw [exec_host hi, hc, hp]
  dsimp only
  rw [run_shell hl hf, List.singleton_append, run_memRead_reference (hr.setLock (.held (.host s.requester))) hn,
    run_release, run_respond_host, run_nil, ← afterGet_eq hl]
  rfl

/-- A GET of a field of a one-byte register answers with the field of that register. -/
theorem exec_getField {i : Instr} {reg : Reg} {f : FieldName} {s : State} (hi : i.isHost = true)
    (hp : instrProgram i = shell [.memRead reg 1] (.field f)) (hn : regWidth s.layout (s.layout.addr reg) = 1)
    (hs : s.configured) (hr : s.onReference) (hc : checkOf i s = none) :
    exec i s = .next (afterGet s (s.layout.addr reg)
      [(s.layout.field f).extract (s.chip.regByte (s.layout.addr reg))]) := by
  rw [exec_get hi hp hn hs hr hc, Chip.readReg_of_width_one _ hn]
  rfl

/-- Validation passes a device GET of a configured block (60_exceptions.md R323). -/
theorem deviceGet_check {s : State} (hs : s.configured) :
    firstError [deviceFrame 0 [] 0, faultedCheck s, initializedCheck s] = none := by
  obtain ⟨⟨-, hf⟩, hi⟩ := hs
  simp [firstError_eq_none, deviceFrame_eq, WellFormed.device, faultedCheck_eq, initializedCheck_eq, hf, hi]

/-- Validation passes a pipe GET of one of the six pipes of a configured block (R323). -/
theorem pipeGet_check {s : State} {p : BitVec 3} (hs : s.configured) (hp : p.toNat ≤ 5) :
    firstError [pipeFrame [] 0, faultedCheck s, initializedCheck s, pipeCheck p] = none := by
  obtain ⟨⟨-, hf⟩, hi⟩ := hs
  simp [firstError_eq_none, pipeFrame_eq, WellFormed.pipeOp, faultedCheck_eq, initializedCheck_eq, pipeCheck_eq, hf, hi,
    hp]

/-- Settles O31: each GET is one read of the register its view is decoded from. -/
theorem getsReturnTheViews : Obligations.GetsReturnTheViews := by
  intro p s hp hs hr y
  have hy : y.wf = true := hr.2
  have hd := deviceGet_check hs
  have hq := pipeGet_check hs hp
  refine ⟨?_, ?_, ?_, ?_, ?_, ?_, ?_, ?_, ?_⟩
  · exact exec_getField (reg := .rfCh) (f := .channel) rfl rfl (regWidth_rfCh hy) hs hr hd
  · exact exec_getField (reg := .rfSetup) (f := .outputPower) rfl rfl (regWidth_rfSetup hy) hs hr hd
  · exact exec_getField (reg := .rfSetup) (f := .dataRate) rfl rfl (regWidth_rfSetup hy) hs hr hd
  · exact exec_getField (reg := .config) (f := .powerMode) rfl rfl (regWidth_config hy) hs hr hd
  · exact exec_getField (reg := .config) (f := .workingMode) rfl rfl (regWidth_config hy) hs hr hd
  · exact exec_get (reg := .rxAddr p) (ret := .bytes) rfl rfl (regWidth_rxAddr hy hp) hs hr hq
  · exact exec_getField (reg := .enAa) (f := .autoAck p) rfl rfl (regWidth_enAa hy) hs hr hq
  · exact exec_getField (reg := .rxPw p) (f := .payloadSize) rfl rfl (regWidth_rxPw hy hp) hs hr hq
  · exact exec_getField (reg := .enRxaddr) (f := .enabled p) rfl rfl (regWidth_enRxaddr hy) hs hr hq

end Sys2Proof.Machine
end

section
/-! PROOFS. A host operation that passes validation waits at `Acquire()` while the exclusion is held (20_memory.md R99,
R100). -/

namespace Sys2Proof.Machine

open Sys2Proof Sys2Proof.Claims

/-! ### What the host decoder gives -/

theorem hostInstr_mem (op : BitVec 5) (p : BitVec 3) (a : List Byte) :
    ∃ f ∈ hostMap, hostInstr op p a = f p a := by
  have hop : op.toNat < hostMap.length := op.isLt
  exact ⟨_, List.getElem_mem hop, by rw [hostInstr, List.getD_eq_getElem _ _ hop]⟩

/-- A frame decodes to an entry of the op code map, with as many arguments as its length byte says (30_encoding.md R121,
R125). -/
theorem decodeHost_eq_ok {frame : List Byte} {i : Instr} (h : decodeHost frame = .ok i) :
    ∃ f ∈ hostMap, ∃ p a, a.length ≤ 255 ∧ i = f p a := by
  unfold decodeHost at h
  split at h
  · next hdr l args =>
    split at h <;> cases h
    obtain ⟨f, hf, e⟩ := hostInstr_mem (opField hdr) (pipeField hdr) args
    exact ⟨f, hf, _, args, by omega, e⟩
  · cases h

/-! ### Validation finds the error R323 reports first -/

theorem firstError_singleton (o : Option Status) : firstError [o] = o := by
  cases o <;> rfl

theorem firstError_cons_some_if (c : Prop) [Decidable c] (e : Status) (l : List (Option Status)) :
    firstError ((if c then some e else none) :: l) = if c then some e else firstError l := by
  split <;> rfl

theorem firstError_cons_none_if (c : Prop) [Decidable c] (e : Status) (l : List (Option Status)) :
    firstError ((if c then none else some e) :: l) = if ¬c then some e else firstError l := by
  rw [ite_not]
  split <;> rfl

/-- For each op code, the checks its validation lists are the ones that apply to it, in the rule's order. -/
theorem checkOf_hostMap {f : BitVec 3 → List Byte → Instr} (hf : f ∈ hostMap) (p : BitVec 3) {a : List Byte}
    (ha : a.length ≤ 255) (s : State) : checkOf (f p a) s = expectedError (f p a) s := by
  have hfits : WellFormed.fits a = true := by simpa [WellFormed.fits] using ha
  fin_cases hf <;>
    simp [checkOf, expectedError, hfits, Instr.wellFormed, Instr.isOperation, Instr.isAcceptedBeforeInit, isInit,
      onNoPipe, Instr.pipeOperand, valueError, arg, argNat, firstError_singleton, firstError_cons_some_if,
      firstError_cons_none_if, deviceFrame_eq, deviceFrameAnyLength_eq, pipeFrame_eq, faultedCheck_eq,
      uninitializedCheck_eq, initializedCheck_eq, pipeCheck_eq, payloadSizeCheck_eq, channelCheck_eq, enumCheck_eq,
      sendLengthCheck_eq, addressLengthCheck_eq, checkInit, checkSetChannel, checkGetChannel, checkSetOutputPower,
      checkGetOutputPower, checkSetDataRate, checkGetDataRate, checkSetPowerMode, checkGetPowerMode,
      checkGetWorkingMode, checkSend, checkRegisterConsumer, checkPipeGetAddress, checkPipeSetAddress,
      checkPipeGetAutoack, checkPipeSetAutoack, checkPipeGetPayloadSize, checkPipeSetPayloadSize, checkPipeGetEnabled,
      checkPipeSetEnabled]

/-- What validation raises for a decoded frame is the first error of 60_exceptions.md R323. -/
theorem checkOf_eq_expectedError {frame : List Byte} {i : Instr} (h : decodeHost frame = .ok i) (s : State) :
    checkOf i s = expectedError i s := by
  obtain ⟨f, hf, p, a, ha, rfl⟩ := decodeHost_eq_ok h
  exact checkOf_hostMap hf p ha s

/-! ### Waiting -/

/-- Every operation's program is the shell of 41_device_config.md R190 around a body. -/
theorem instrProgram_eq_shell {i : Instr} (h : i.isOperation = true) :
    ∃ body ret, instrProgram i = shell body ret := by
  cases i <;> cases h <;> exact ⟨_, _, rfl⟩

/-- Settles O9: validation passes the operation, and the first primitive of its shell is `Acquire()`. -/
theorem operationWaitsForTheExclusion : Obligations.OperationWaitsForTheExclusion := by
  intro bytes i s ag hd hop he hl
  obtain ⟨body, ret, hp⟩ := instrProgram_eq_shell hop
  rw [exec_host (decodeHost_isHost hd), checkOf_eq_expectedError hd, he, hp]
  exact congrArg Host.Outcome.next (run_shell_wait hl)

end Sys2Proof.Machine
end

section
/-! PROOFS. What a register write of the reference chip changes, byte by byte (20_memory.md R109, R110). -/

namespace Sys2Proof.Machine

open Sys2Proof

/-! ### Every register but STATUS -/

theorem Chip.writeReg_of_ne_status (c : Chip) {y : Layout} {r : BitVec 5} (h : r ≠ y.regStatus) (v : List Byte) :
    c.writeReg y r v =
      { c with regs := c.regs.writeBytes (8 * r.toNat) (v.take (WellFormed.widthOf y r)) } := by
  rw [← regWidth_eq]
  exact if_neg h

theorem Chip.read_writeReg_inside (c : Chip) {y : Layout} {r : BitVec 5} (h : r ≠ y.regStatus) {v : List Byte}
    {j : Nat} (hv : j < v.length) (hw : j < WellFormed.widthOf y r) :
    (c.writeReg y r v).regs.read (8 * r.toNat + j) = v[j] := by
  have hj : j < (v.take (WellFormed.widthOf y r)).length := by
    rw [List.length_take]
    omega
  rw [writeReg_of_ne_status c h, Memory.read_writeBytes_inside _ _ _ _ hj, List.getElem_take]

theorem Chip.read_writeReg_outside (c : Chip) {y : Layout} {r : BitVec 5} (h : r ≠ y.regStatus) {v : List Byte}
    {k : Nat} (hk : k < 8 * r.toNat ∨ 8 * r.toNat + min v.length (WellFormed.widthOf y r) ≤ k) :
    (c.writeReg y r v).regs.read k = c.regs.read k := by
  rw [writeReg_of_ne_status c h]
  refine Memory.read_writeBytes_outside _ _ _ _ ?_
  rwa [List.length_take, min_comm]

/-! ### STATUS -/

theorem Chip.writeReg_status (c : Chip) (y : Layout) (b : Byte) :
    c.writeReg y y.regStatus [b] = c.withStatus y (statusClear y (c.status y) b) :=
  if_pos rfl

@[simp] theorem Chip.status_withStatus (c : Chip) (y : Layout) (v : Byte) : (c.withStatus y v).status y = v :=
  Memory.read_write_self _ _ _

theorem Chip.read_withStatus (c : Chip) {y : Layout} {k : Nat} (h : k ≠ 8 * y.regStatus.toNat) (v : Byte) :
    (c.withStatus y v).regs.read k = c.regs.read k :=
  Memory.read_write_ne _ _ h

/-- The flags are the RX-ready bit and bits 5 and 4 (10_state.md R56). -/
theorem getLsbD_statusFlags (y : Layout) (j : Nat) :
    (statusFlags y).getLsbD j = decide (j = y.rxReadyBit.toNat ∨ j = 5 ∨ j = 4) := by
  unfold statusFlags rxReadyFlag
  generalize y.rxReadyBit = r
  by_cases hj : j < 8
  · revert r
    revert j
    decide
  · have hr : r.toNat < 8 := r.isLt
    rw [BitVec.getLsbD_of_ge _ _ (not_lt.mp hj)]
    exact (decide_eq_false (by omega)).symm

/-- A STATUS write clears the flags written as 1 and no other bit. -/
theorem getLsbD_statusClear (y : Layout) (status b : Byte) (j : Nat) :
    (statusClear y status b).getLsbD j =
      (status.getLsbD j && !(decide (j = y.rxReadyBit.toNat ∨ j = 5 ∨ j = 4) && b.getLsbD j)) := by
  by_cases hj : j < 8
  · simp only [statusClear, BitVec.getLsbD_and, BitVec.getLsbD_not, getLsbD_statusFlags, hj, decide_true,
      Bool.true_and, Bool.and_comm]
  · simp [BitVec.getLsbD_of_ge _ _ (not_lt.mp hj)]

/-- Settles O37: a register's bytes are written from its address up; a STATUS write is one byte, with the flags
cleared. -/
theorem referenceWriteChangesItsRegisterOnly : Obligations.ReferenceWriteChangesItsRegisterOnly := by
  refine ⟨⟨rfl, rfl⟩, fun y c r v h => ⟨fun j hv hw => ?_, fun k hk => ?_, ?_⟩, fun y c b => ?_⟩
  · exact Chip.read_writeReg_inside c h hv hw
  · exact Chip.read_writeReg_outside c h hk
  · rw [Chip.writeReg_of_ne_status c h]
    exact ⟨rfl, rfl⟩
  · rw [Chip.writeReg_status, Chip.status_withStatus]
    exact ⟨getLsbD_statusClear y _ b, fun k hk => Chip.read_withStatus c hk _, rfl, rfl⟩

end Sys2Proof.Machine
end

section
/-! PROOFS. An agent makes wire events only while it holds the exclusion (20_memory.md R96, R97). -/

namespace Sys2Proof.Machine

open Sys2Proof Sys2Proof.Claims

theorem wireEvents_append (es fs : List Event) : wireEvents (es ++ fs) = wireEvents es ++ wireEvents fs :=
  List.filter_append ..

theorem hasWireEvent_iff (es : List Event) : hasWireEvent es ↔ wireEvents es ≠ [] := by
  simp [hasWireEvent, wireEvents]

theorem State.wireEvents_emit {e : Event} (h : e.isWire = false) (s : State) :
    wireEvents (s.emit e).trace = wireEvents s.trace := by
  simp [wireEvents, h]

@[simp] theorem wireEvents_returnCode (ag : Agent) (op : Op) (c : Status) (s : State) :
    wireEvents (returnCode ag op c s).trace = wireEvents s.trace := by
  unfold returnCode
  split
  · split
    · exact State.wireEvents_emit rfl s
    · rfl
  · rfl

/-- A primitive that makes a wire event stands inside the exclusive part and leaves the agent there. -/
theorem execPrim_wireEvents {ag : Agent} {p : Prim} {l : Locals} {s t : State}
    (h : (execPrim ag p l s).state = some t) :
    wireEvents t.trace = wireEvents s.trace ∨ p.phase = .inside ∧ p.nextPhase = .inside := by
  cases p
  case acquire =>
    simp only [execPrim] at h
    split at h <;> cases h
    exact .inl rfl
  case release | takeEdge => cases h; exact .inl rfl
  case deliverOrDrop =>
    simp only [execPrim] at h
    split at h <;> cases h <;> exact .inl (State.wireEvents_emit rfl s)
  case respond =>
    cases ag with
    | host n => cases h; exact .inl (State.wireEvents_emit rfl s)
    | irq => cases h; exact .inl rfl
  all_goals exact .inr ⟨rfl, rfl⟩

/-- A move on the main course is the primitive's, but for the agent's own sequencer; a wait is no move. -/
theorem advanceBusy_main {ag : Agent} {b : Busy} {s : State} {p : Prim} (hc : b.course = .main)
    (hp : (programOf b.op)[b.step]? = some p) :
    (∃ o t, (execPrim ag p b.locals s).state = some t ∧ advanceBusy ag b s = t.setSeq ag o) ∨
      advanceBusy ag b s = s := by
  simp only [advanceBusy, hc, hp]
  cases execPrim ag p b.locals s with
  | done l t =>
    dsimp only
    split <;> exact .inl ⟨_, _, rfl, rfl⟩
  | raise | hung | handedOver => exact .inl ⟨_, _, rfl, rfl⟩
  | wait => exact .inr rfl

/-- Where a busy agent inside its exclusive part holds the exclusion, a move of it that makes a wire event starts and
ends with the exclusion held. -/
theorem advanceBusy_wireEvents {ag : Agent} {b : Busy} {s : State} (hb : b.holds = true → s.lock = .held ag) :
    wireEvents (advanceBusy ag b s).trace = wireEvents s.trace ∨
      s.lock = .held ag ∧ (advanceBusy ag b s).lock = .held ag := by
  cases hc : b.course with
  | hung | delivering | returning c => simp [advanceBusy, hc]
  | raised c =>
    simp only [advanceBusy, hc]
    split <;> simp
  | main =>
    cases hp : (programOf b.op)[b.step]? with
    | none => simp [advanceBusy, hc, hp]
    | some p =>
      rcases advanceBusy_main (ag := ag) (s := s) hc hp with ⟨o, t, ht, e⟩ | e
      · rw [e, State.setSeq_trace, State.setSeq_lock]
        refine (execPrim_wireEvents ht).imp_right fun ⟨hφ, hφ'⟩ => ?_
        have hl : s.lock = .held ag := hb ((Busy.holds_iff_inside hc (Op.phaseAt_getElem hp).1).mpr hφ)
        exact ⟨hl, ((execPrim_frame ht).lock (by rintro rfl; cases hφ) (by rintro rfl; cases hφ')).trans hl⟩
      · exact .inl (by rw [e])

theorem advance_wireEvents {s : State} (ag : Agent) (hs : s.exclusive) :
    wireEvents (advance ag s).trace = wireEvents s.trace ∨
      s.lock = .held ag ∧ (advance ag s).lock = .held ag := by
  unfold advance
  split
  · next b hb => exact advanceBusy_wireEvents fun hh => (hs ag).mpr ⟨b, hb, hh⟩
  · split
    · exact .inl rfl
    · split
      · exact advanceBusy_wireEvents nofun
      · exact .inl rfl

/-- Settles O51: only primitives between `Acquire()` and `Release()` make wire events, and there the agent is the
holder. -/
theorem wireEventsNeedTheExclusion : Obligations.WireEventsNeedTheExclusion := by
  intro s ag es hs ht hw
  refine (advance_wireEvents ag hs).resolve_left fun e => (hasWireEvent_iff es).mp hw ?_
  rw [ht, wireEvents_append] at e
  exact List.append_right_eq_self.mp e

end Sys2Proof.Machine
end

section
/-! PROOFS. What the frames of the two ports mean, and how the block answers those that mean no operation
(30_encoding.md R121 to R136). -/

namespace Sys2Proof.Machine

open Sys2Proof Sys2Proof.Claims Sys2Proof.Laws.FrameLength

/-! ### The round trip -/

theorem opField_append (op : BitVec 5) (p : BitVec 3) : opField (op ++ p) = op :=
  BitVec.extractLsb'_append_eq_left

theorem pipeField_append (op : BitVec 5) (p : BitVec 3) : pipeField (op ++ p) = p :=
  BitVec.extractLsb'_append_eq_right

/-- A request frame whose arguments its length byte can count decodes to the entry of its op code (30_encoding.md R121,
R123). -/
theorem decodeHost_encodeHost (op : BitVec 5) (p : BitVec 3) {a : List Byte} (ha : a.length ≤ 255) :
    decodeHost (encodeHost op p a) = .ok (hostInstr op p a) := by
  have hl : a.length = (BitVec.ofNat 8 a.length).toNat := (Nat.mod_eq_of_lt (by omega)).symm
  rw [encodeHost, decodeHost, if_pos hl, opField_append, pipeField_append]

/-- A legal host instruction is the map's entry at the op code its frame carries, and its length byte can count its
arguments (R125, R126, R129). -/
theorem encode_host {y : Layout} {i : Instr} (hi : i.isHost = true) (h : i.wellFormed y = true) :
    ∃ op p a, encode y i = encodeHost op p a ∧ hostInstr op p a = i ∧ a.length ≤ 255 := by
  cases i
  case rRegister | wRegister | rRxPayload | wTxPayload => cases hi
  case init | setChannel | getChannel | setOutputPower | getOutputPower | setDataRate | getDataRate | setPowerMode |
      getPowerMode | getWorkingMode | registerConsumer =>
    exact ⟨_, _, _, rfl, rfl, device_le h (by decide)⟩
  case pipeGetAddress | pipeGetAutoack | pipeSetAutoack | pipeGetPayloadSize | pipeSetPayloadSize | pipeGetEnabled |
      pipeSetEnabled =>
    exact ⟨_, _, _, rfl, rfl, pipeOp_le h (by decide)⟩
  case send => exact ⟨_, _, _, rfl, rfl, fits_le ((Bool.and_eq_true _ _).mp h).2⟩
  all_goals exact ⟨_, _, _, rfl, rfl, fits_le h⟩

/-- Legal register data is no longer than a payload (10_state.md R50, 30_encoding.md R131). -/
theorem length_le_of_wRegister_wellFormed {y : Layout} {r : BitVec 5} {d : List Byte}
    (h : (Instr.wRegister r d).wellFormed y = true) : d.length ≤ Config.payloadMax := by
  simp only [Instr.wellFormed, Bool.and_eq_true, decide_eq_true_eq] at h
  exact h.2 ▸ (widthOf_le y r).trans (by decide)

theorem decodeWire_encode {y : Layout} {i : Instr} (hy : y.wf = true) (hi : i.isHost = false)
    (h : i.wellFormed y = true) : decodeWire y (encode y i) = .ok i := by
  cases i
  case rRegister r => exact decodeWire_read hy r
  case wRegister r d => exact decodeWire_write hy r d (length_le_of_wRegister_wellFormed h)
  case rRxPayload => exact decodeWire_readRx hy
  case wTxPayload d =>
    exact decodeWire_writeTx hy d (of_decide_eq_true ((Bool.and_eq_true _ _).mp h).2)
  all_goals cases hi

/-- Settles O6: a host frame carries its op code, pipe and arguments; the four wire commands are told apart by their
bytes. -/
theorem decodeInvertsEncode : Obligations.DecodeInvertsEncode := by
  refine ⟨Layout.wf_default, fun y i hy h => ?_⟩
  cases hi : i.isHost with
  | true =>
    obtain ⟨op, p, a, he, rfl, ha⟩ := encode_host hi h
    rw [he, Instr.port, hi]
    exact decodeHost_encodeHost op p ha
  | false =>
    rw [Instr.port, hi]
    exact decodeWire_encode hy hi h

/-! ### Frames that mean no operation -/

/-- Two bytes at least and as many as the frame says itself: these frames decode, and no others (R124). -/
theorem decodeHost_ok_iff (bytes : List Byte) :
    (∃ i, decodeHost bytes = .ok i) ↔ ¬(bytes.length < 2 ∨ bytes.length ≠ 2 + (bytes.getD 1 0).toNat) := by
  match bytes with
  | [] | [_] => simp [decodeHost]
  | hdr :: l :: args =>
    have hl : ¬(args.length + 2 < 2 ∨ args.length + 2 ≠ 2 + l.toNat) ↔ args.length = l.toNat := by omega
    refine Iff.trans ?_ hl.symm
    by_cases h : args.length = l.toNat <;> simp [decodeHost, h]

/-- What validation raises is all an instruction does (60_exceptions.md R312). -/
theorem onlyAnswers_of_checkOf {i : Instr} {s : State} {c : Status} (hi : i.isHost = true) (h : checkOf i s = some c) :
    OnlyAnswers i s c := by
  rw [OnlyAnswers, exec_host hi, h]
  rfl

/-- Validation of a reserved op code raises E_ILLEGAL_OP (30_encoding.md R129). -/
theorem checkOf_reserved {i : Instr} (hi : i.isHost = true) (ho : i.isOperation = false) (s : State) :
    checkOf i s = some .illegalOp := by
  cases i
  case reservedOp00 | reservedOp0D | reservedOp0E | reservedOp0F | reservedOp18 | reservedOp19 | reservedOp1A |
      reservedOp1B | reservedOp1C | reservedOp1D | reservedOp1E | reservedOp1F => rfl
  case rRegister | wRegister | rRxPayload | wTxPayload => cases hi
  all_goals cases ho

theorem onlyAnswers_reserved {i : Instr} (hi : i.isHost = true) (ho : i.isOperation = false) (s : State) :
    OnlyAnswers i s .illegalOp :=
  onlyAnswers_of_checkOf hi (checkOf_reserved hi ho s)

/-- Settles O11: validation refuses each of the twelve. -/
theorem reservedOpCodesAreRefused : Obligations.ReservedOpCodesAreRefused := fun _ _ s =>
  ⟨onlyAnswers_reserved rfl rfl s, onlyAnswers_reserved rfl rfl s, onlyAnswers_reserved rfl rfl s,
    onlyAnswers_reserved rfl rfl s, onlyAnswers_reserved rfl rfl s, onlyAnswers_reserved rfl rfl s,
    onlyAnswers_reserved rfl rfl s, onlyAnswers_reserved rfl rfl s, onlyAnswers_reserved rfl rfl s,
    onlyAnswers_reserved rfl rfl s, onlyAnswers_reserved rfl rfl s, onlyAnswers_reserved rfl rfl s⟩

/-- A frame that is taken and does not decode is answered with E_ILLEGAL_OP (R124). -/
theorem runRequest_of_error {s : State} {a : Nat} {frame : List Byte} {e : DecodeError} (h : s.takesFrom a = true)
    (hd : decodeHost frame = .error e) : runRequest a frame s = .next (s.respond a .illegalOp []) := by
  simp [runRequest, h, hd]

theorem step_request {s : State} {a : Nat} {bytes : List Byte} {rest : List Input}
    (h : s.agenda = .request a bytes :: rest) : step s = runRequest a bytes { s with agenda := rest } := by
  simp [step, h, runInput]

/-- Settles O5: a frame decodes exactly if its length is right, and E_ILLEGAL_OP is the first error of R323. -/
theorem illegalFramesAreRefused : Obligations.IllegalFramesAreRefused := by
  intro s a bytes rest hag ha hs
  have ht : ({ s with agenda := rest } : State).takesFrom a = true := (State.takesFrom_iff _ a).mpr ⟨ha, hs⟩
  refine ⟨fun hl => ?_, fun i hd hi => ?_, (decodeHost_ok_iff bytes).mpr⟩
  · cases hd : decodeHost bytes with
    | ok i => exact absurd hl ((decodeHost_ok_iff bytes).mp ⟨i, hd⟩)
    | error e => rw [step_request hag, runRequest_of_error ht hd]; rfl
  · rw [step_request hag, runRequest_of_decodes ht hd]
    refine onlyAnswers_of_checkOf (decodeHost_isHost hd) ?_
    rw [checkOf_eq_expectedError hd]
    exact if_pos hi

/-! ### Written-out frames -/

/-- Settles O3: the frames and lines are decoded by evaluation; a response frame is its code, its length and its
data. -/
theorem framesDecodeAsTheMapsSay : Obligations.FramesDecodeAsTheMapsSay := by
  refine ⟨rfl, rfl, rfl, rfl, rfl, rfl, rfl, by decide, by decide, rfl, fun st data h => ⟨rfl, ?_, rfl⟩,
    fun _ _ _ _ => rfl⟩
  exact Nat.mod_eq_of_lt (by omega)

/-! ### Every step but that of a wire frame has a next state -/

/-- Every instruction has a next state. -/
theorem exec_next (i : Instr) (s : State) : ∃ t, exec i s = .next t := by
  cases hi : i.isHost with
  | true => exact ⟨_, exec_host hi s⟩
  | false => exact (exec_wire hi s).imp fun _ => And.left

theorem runRequest_next (a : Nat) (frame : List Byte) (s : State) : ∃ t, runRequest a frame s = .next t := by
  cases ht : s.takesFrom a with
  | false => exact ⟨s, runRequest_of_not_taken ht frame⟩
  | true =>
    cases hd : decodeHost frame with
    | error e => exact ⟨_, runRequest_of_error ht hd⟩
    | ok i =>
      rw [runRequest_of_decodes ht hd]
      exact exec_next i _

/-- Settles O54: a request runs to a next state, and every other input but a wire frame is a function of the state. -/
theorem onlyWireFramesStop : Obligations.OnlyWireFramesStop := by
  intro s hw
  unfold step
  cases ha : s.agenda with
  | nil => exact ⟨s, rfl⟩
  | cons i rest =>
    cases i with
    | wire f => exact absurd ha (hw f rest)
    | request a frame => exact runRequest_next a frame _
    | _ => exact ⟨_, rfl⟩

end Sys2Proof.Machine
end

section
/-! PROOFS. What the block puts on the wire: the transactions of a step, of an operation and of the handler
(30_encoding.md R133 to R141). -/

namespace Sys2Proof.Machine

open Sys2Proof Sys2Proof.Claims

/-! ### What is added to the trace -/

/-- From `s` to `t` events are added to the trace, and the transactions among them return the bytes asked for and have
a frame (bytes sent, number of bytes asked for) of which `P` holds. -/
def EmitsOnly (P : List Byte → Nat → Prop) (s t : State) : Prop :=
  ∃ es, t.trace = s.trace ++ es ∧ ∀ tx n rx, Event.txn tx n rx ∈ es → rx.length = n ∧ P tx n

namespace EmitsOnly

variable {P Q : List Byte → Nat → Prop} {s t u : State}

theorem of_trace_eq (h : t.trace = s.trace) : EmitsOnly P s t :=
  ⟨[], by simpa using h, nofun⟩

theorem refl (s : State) : EmitsOnly P s s := of_trace_eq rfl

theorem of_append_singleton {e : Event} (h : t.trace = s.trace ++ [e])
    (he : ∀ tx n rx, e = .txn tx n rx → rx.length = n ∧ P tx n) : EmitsOnly P s t :=
  ⟨[e], h, fun tx n rx hm => he tx n rx (List.mem_singleton.mp hm).symm⟩

theorem trans (h : EmitsOnly P s t) (h' : EmitsOnly P t u) : EmitsOnly P s u := by
  obtain ⟨es, ht, hes⟩ := h
  obtain ⟨fs, hu, hfs⟩ := h'
  refine ⟨es ++ fs, by rw [hu, ht, List.append_assoc], fun tx n rx hm => ?_⟩
  exact (List.mem_append.mp hm).elim (hes tx n rx) (hfs tx n rx)

theorem mono (h : EmitsOnly P s t) (hPQ : ∀ tx n, P tx n → Q tx n) : EmitsOnly Q s t := by
  obtain ⟨es, ht, hes⟩ := h
  exact ⟨es, ht, fun tx n rx hm => (hes tx n rx hm).imp_right (hPQ tx n)⟩

/-- The events added are determined by the two traces. -/
theorem of_mem {es : List Event} (h : EmitsOnly P s t) (ht : t.trace = s.trace ++ es) {tx : List Byte} {n : Nat}
    {rx : List Byte} (hm : Event.txn tx n rx ∈ es) : rx.length = n ∧ P tx n := by
  obtain ⟨fs, ht', hfs⟩ := h
  obtain rfl : es = fs := List.append_cancel_left (ht.symm.trans ht')
  exact hfs tx n rx hm

theorem of_setSeq (ag : Agent) (o : Option Busy) (s : State) : EmitsOnly P s (s.setSeq ag o) := of_trace_eq (by simp)

theorem of_setLock (l : Lock) (s : State) : EmitsOnly P s (s.setLock l) := of_trace_eq rfl

theorem of_respond (a : Nat) (c : Status) (d : List Byte) (s : State) : EmitsOnly P s (s.respond a c d) :=
  of_append_singleton (State.respond_trace s a c d) nofun

theorem of_returnCode (ag : Agent) (op : Op) (c : Status) (s : State) : EmitsOnly P s (returnCode ag op c s) := by
  unfold returnCode
  split
  · split
    · exact of_respond _ _ _ _
    · exact refl s
  · exact refl s

theorem of_finishRaise (ag : Agent) (op : Op) (c : Status) (s : State) : EmitsOnly P s (finishRaise ag op c s) :=
  (of_setLock .free s).trans (of_returnCode ag op c _)

theorem of_busPrim {tx : List Byte} {n : Nat} {k : List Byte → Locals} (hP : P tx n)
    (h : (busPrim tx n k s).state = some t) : EmitsOnly P s t := by
  unfold busPrim raiseBusError at h
  split at h <;> cases h
  · next hx =>
    obtain ⟨-, ht, hn⟩ := txn_completed hx
    refine of_append_singleton ht fun tx n rx e => ?_
    cases e
    exact ⟨hn, hP⟩
  · next hx => exact of_trace_eq (by rw [txn_failed hx])
  · next hx => exact of_trace_eq (by rw [txn_hung hx])

end EmitsOnly

/-! ### The frame of a primitive -/

/-- The frame of a primitive that is a bus transaction: the bytes it sends and how many it asks for (20_memory.md R82,
R83, 30_encoding.md R138 to R141). -/
def Prim.frame (l : Locals) (s : State) : Prim → Option (List Byte × Nat)
  | .memRead reg n => some (s.readFrame reg, n)
  | .writeField reg f val => some (s.writeFrame reg [(s.layout.field f).put (l.bytes.headD 0) val], 0)
  | .writeAddr reg w a => some (s.writeFrame reg (addrMerge w a l.bytes), 0)
  | .clearRxReady => some (s.writeFrame .status [(s.layout.field .rxReady).mask], 0)
  | .writeTx d => some (encodeCmd s.layout.opcWTxPayload 0 d, 0)
  | .readRx => some (encodeCmd s.layout.opcRRxPayload 0 [], s.packetSize)
  | _ => none

/-- A primitive's transaction, if it makes one, is the one of its frame. -/
theorem execPrim_emitsOnly {P : List Byte → Nat → Prop} {ag : Agent} {p : Prim} {l : Locals} {s t : State}
    (hP : ∀ tx n, p.frame l s = some (tx, n) → P tx n) (h : (execPrim ag p l s).state = some t) :
    EmitsOnly P s t := by
  cases p
  case memRead | writeField | writeAddr | clearRxReady | writeTx | readRx => exact .of_busPrim (hP _ _ rfl) h
  case takeEdge | setPacketSize | release | setFsm | arm | registerConsumer => cases h; exact .of_trace_eq rfl
  case acquire | checkFaulted | checkUninitialized | checkReceive =>
    simp only [execPrim] at h
    split at h <;> cases h <;> exact .of_trace_eq rfl
  case setCe b => cases h; exact .of_append_singleton (State.driveCe_trace s b) nofun
  case delay d => cases h; exact .of_append_singleton (State.doDelay_trace s d) nofun
  case ceAfterSend =>
    cases h
    split
    · exact .of_append_singleton (State.driveCe_trace s true) nofun
    · exact .refl s
  case route => cases h; split <;> exact .of_trace_eq rfl
  case deliverOrDrop =>
    simp only [execPrim] at h
    split at h <;> cases h <;> exact .of_append_singleton (State.emit_trace s _) nofun
  case respond =>
    cases ag with
    | host n => cases h; exact .of_respond _ _ _ _
    | irq => cases h; exact .refl s

end Sys2Proof.Machine

namespace Sys2Proof

/-! ### The registers a program names -/

/-- The register is one of 10_state.md R50: its pipe, if it has one, is one of the six. -/
def Reg.Described : Reg → Prop
  | .rxAddr p | .rxPw p => p.toNat < Config.nPipes
  | _ => True

/-- The width of a register, by name (R50, 43_pipe.md R270). -/
def Reg.width : Reg → Nat
  | .rxAddr p => Machine.addrWidth p
  | _ => 1

theorem Reg.width_ne_zero (reg : Reg) : reg.width ≠ 0 := by
  cases reg
  case rxAddr p =>
    simp only [Reg.width, Machine.addrWidth]
    split <;> decide
  all_goals exact one_ne_zero

end Sys2Proof

namespace Sys2Proof.Machine

open Sys2Proof Sys2Proof.Claims

/-- In a layout a chip can have, the address of a described register has the register's width. -/
theorem widthOf_addr {y : Layout} (hy : y.wf = true) {reg : Reg} (hr : reg.Described) :
    WellFormed.widthOf y (y.addr reg) = reg.width := by
  rw [← regWidth_eq]
  cases reg with
  | config => exact regWidth_config hy
  | enAa => exact regWidth_enAa hy
  | enRxaddr => exact regWidth_enRxaddr hy
  | rfCh => exact regWidth_rfCh hy
  | rfSetup => exact regWidth_rfSetup hy
  | status => exact regWidth_status hy
  | rxAddr p => exact regWidth_rxAddr hy (Nat.le_of_lt_succ hr)
  | rxPw p => exact regWidth_rxPw hy (Nat.le_of_lt_succ hr)

theorem isReadFrame_readFrame {s : State} (hy : s.layout.wf = true) {reg : Reg} (hr : reg.Described) :
    isReadFrame s.layout (s.readFrame reg) reg.width := by
  have hw := widthOf_addr hy hr
  obtain ⟨hopc, -⟩ := Layout.wf_opcodes hy
  exact ⟨s.layout.addr reg, hw ▸ reg.width_ne_zero, hw.symm, rfl, (wireByte hopc _).1⟩

theorem isWriteFrame_writeFrame {s : State} (hy : s.layout.wf = true) {reg : Reg} (hr : reg.Described) {v : List Byte}
    (hv : v.length = reg.width) : isWriteFrame s.layout (s.writeFrame reg v) 0 := by
  have hw := widthOf_addr hy hr
  obtain ⟨-, hopc, -⟩ := Layout.wf_opcodes hy
  exact ⟨s.layout.addr reg, v, hw ▸ reg.width_ne_zero, hv.trans hw.symm, rfl, rfl, (wireByte hopc _).1⟩

/-! ### The programs -/

/-- What of instruction `i`'s program makes its transactions legal: they read and write described registers at their
width, but for the payload of a SEND. -/
def Prim.Legal (i : Instr) : Prim → Prop
  | .memRead reg n => reg.Described ∧ n = reg.width
  | .writeField reg _ _ => reg.Described ∧ reg.width = 1
  | .writeAddr reg w a => reg.Described ∧ w = reg.width ∧ a.length ≤ w
  | .writeTx d => (∃ p, i = .send p d) ∧ 1 ≤ d.length ∧ d.length ≤ Config.payloadMax
  | .readRx | .clearRxReady => False
  | _ => True

theorem pipe_lt_of_validated {i : Instr} {p : BitVec 3} (hp : i.pipeOperand = some p)
    (hv : (Op.instr i).validated = true) : p.toNat < Config.nPipes := by
  cases i <;> cases hp
  case pipeSetAddress =>
    simp only [Op.validated, Bool.and_eq_true, decide_eq_true_eq] at hv
    obtain ⟨⟨hp, -⟩, -⟩ := hv
    exact hp
  all_goals exact of_decide_eq_true hv

theorem legal_rmw1 {i : Instr} {reg : Reg} (hd : reg.Described) (hw : reg.width = 1) (f : FieldName) (v : Byte) :
    ∀ p ∈ rmw1 reg f v, p.Legal i := by
  simp [rmw1, Prim.Legal, hd, hw]

theorem legal_shell {i : Instr} {body : List Prim} (h : ∀ p ∈ body, p.Legal i) (ret : Ret) :
    ∀ p ∈ shell body ret, p.Legal i := by
  simpa [shell, Prim.Legal, or_imp, forall_and] using h

/-- The program of an instruction with validated operands is legal. -/
theorem legal_of_mem_instrProgram {i : Instr} (hv : (Op.instr i).validated = true) :
    ∀ p ∈ instrProgram i, p.Legal i := by
  cases i
  case rRegister | wRegister | rRxPayload | wTxPayload | reservedOp00 | reservedOp0D | reservedOp0E | reservedOp0F |
      reservedOp18 | reservedOp19 | reservedOp1A | reservedOp1B | reservedOp1C | reservedOp1D | reservedOp1E |
      reservedOp1F => exact nofun
  case init =>
    refine legal_shell ?_ _
    simp [bodyInit, rmw1, setWorkingMode, Prim.Legal, Reg.Described, Reg.width]
  case send p a =>
    have ha : 1 ≤ a.length ∧ a.length ≤ Config.payloadMax := by simpa [Op.validated] using hv
    refine legal_shell ?_ _
    simp [bodySend, rmw1, setWorkingMode, Prim.Legal, Reg.Described, Reg.width, ha]
  case registerConsumer =>
    refine legal_shell ?_ _
    simp [bodyRegisterConsumer, Prim.Legal]
  case setChannel | setOutputPower | setDataRate | setPowerMode | pipeSetAutoack | pipeSetEnabled =>
    refine legal_shell (legal_rmw1 ?_ ?_ _ _) _
    exacts [trivial, rfl]
  case pipeSetPayloadSize =>
    refine legal_shell (legal_rmw1 ?_ ?_ _ _) _
    exacts [pipe_lt_of_validated rfl hv, rfl]
  case pipeSetAddress p a =>
    have ha : a.length ≤ addrWidth p := by
      simp only [Op.validated, Bool.and_eq_true, decide_eq_true_eq] at hv
      exact hv.2
    refine legal_shell ?_ _
    simp [bodyPipeSetAddress, rmwAddr, Prim.Legal, Reg.Described, Reg.width, pipe_lt_of_validated rfl hv, ha]
  case pipeGetAddress | pipeGetPayloadSize =>
    refine legal_shell ?_ _
    exact List.forall_mem_singleton.mpr ⟨pipe_lt_of_validated rfl hv, rfl⟩
  all_goals
    refine legal_shell ?_ _
    exact List.forall_mem_singleton.mpr ⟨trivial, rfl⟩

/-- `q` may follow `p`: an address register is written right after it has been read (40_codec.md R173). -/
def Prim.MayPrecede (p q : Prim) : Prop :=
  match q with
  | .writeAddr reg w _ => p = .memRead reg w
  | _ => True

theorem isChain_programOf (op : Op) : (programOf op).IsChain Prim.MayPrecede := by
  cases op with
  | drain => repeat constructor
  | instr i => cases i <;> repeat constructor

theorem head?_programOf_ne (op : Op) {reg : Reg} {w : Nat} {a : List Byte} :
    (programOf op).head? ≠ some (.writeAddr reg w a) := by
  cases op with
  | drain => nofun
  | instr i => cases i <;> nofun

/-- Where the primitive is the write of an address register, all of the register has been read. -/
def Prim.ReadBy (p : Prim) (l : Locals) : Prop := ∀ reg w a, p = .writeAddr reg w a → l.bytes.length = w

/-- A primitive that completes has read what the next one writes back. -/
theorem readBy_of_execPrim_done {ag : Agent} {p q : Prim} {l l' : Locals} {s t : State} (hpq : p.MayPrecede q)
    (h : execPrim ag p l s = .done l' t) : q.ReadBy l' := by
  rintro reg w a rfl
  obtain rfl : p = .memRead reg w := hpq
  obtain ⟨rx, hx, rfl⟩ := busPrim_done h
  exact (txn_completed hx).2.2

/-! ### The frames of an operation -/

/-- The frames an operation may put on the wire: an instruction's are reads and writes of registers, and a SEND's
payload; the handler's are the read of the RX payload and the write of the RX-ready bit (30_encoding.md R138 to R141,
42_transmit_receive.md R235). -/
def Op.MayEmit (y : Layout) (packetSize : Nat) (op : Op) (tx : List Byte) (n : Nat) : Prop :=
  match op with
  | .instr i => isReadFrame y tx n ∨ isWriteFrame y tx n ∨
      ∃ p a, i = .send p a ∧ tx = y.opcWTxPayload :: a ∧ n = 0 ∧ 1 ≤ a.length ∧ a.length ≤ 32
  | .drain => isRxFrame y packetSize tx n ∨ isClearFrame y tx n

/-- The operation is the handler's, or one of validated operands in a layout a chip can have. -/
def Op.Sound (y : Layout) (op : Op) : Prop := op = .drain ∨ y.wf = true ∧ op.validated = true

theorem length_addrMerge {w : Nat} {a old : List Byte} (ha : a.length ≤ w) (ho : old.length = w) :
    (addrMerge w a old).length = w := by
  rw [addrMerge, List.length_append, List.length_drop, List.length_take]
  omega

theorem encodeCmd_zero (cmd : Byte) (d : List Byte) : encodeCmd cmd 0 d = cmd :: d := by
  simp [encodeCmd]

/-- A legal primitive of an instruction has one of the instruction's frames. -/
theorem mayEmit_of_legal {i : Instr} {p : Prim} {l : Locals} {s : State} {tx : List Byte} {n : Nat}
    (hy : s.layout.wf = true) (hp : p.Legal i) (hr : p.ReadBy l) (hf : p.frame l s = some (tx, n)) :
    (Op.instr i).MayEmit s.layout s.packetSize tx n := by
  cases p with
  | memRead reg m =>
    obtain ⟨hd, rfl⟩ := hp
    cases hf
    exact .inl (isReadFrame_readFrame hy hd)
  | writeField reg f v =>
    obtain ⟨hd, hw⟩ := hp
    cases hf
    exact .inr (.inl (isWriteFrame_writeFrame hy hd hw.symm))
  | writeAddr reg w a =>
    obtain ⟨hd, hw, ha⟩ := hp
    cases hf
    exact .inr (.inl (isWriteFrame_writeFrame hy hd ((length_addrMerge ha (hr reg w a rfl)).trans hw)))
  | writeTx d =>
    obtain ⟨⟨q, rfl⟩, h1, h32⟩ := hp
    cases hf
    exact .inr (.inr ⟨q, d, rfl, encodeCmd_zero _ d, rfl, h1, h32⟩)
  | readRx | clearRxReady => cases hp
  | _ => cases hf

/-- A primitive of the handler has one of the handler's frames. -/
theorem mayEmit_of_mem_handlerProgram {p : Prim} {l : Locals} {s : State} {tx : List Byte} {n : Nat}
    (hp : p ∈ handlerProgram) (hf : p.frame l s = some (tx, n)) :
    Op.drain.MayEmit s.layout s.packetSize tx n := by
  cases p with
  | readRx => cases hf; exact .inl ⟨encodeCmd_zero _ [], rfl⟩
  | clearRxReady => cases hf; exact .inr ⟨rfl, rfl⟩
  | memRead | writeField | writeAddr | writeTx => simp [handlerProgram, bodyDrain] at hp
  | _ => cases hf

theorem mayEmit_of_frame {op : Op} {p : Prim} {l : Locals} {s : State} {tx : List Byte} {n : Nat}
    (hop : op.Sound s.layout) (hp : p ∈ programOf op) (hr : p.ReadBy l) (hf : p.frame l s = some (tx, n)) :
    op.MayEmit s.layout s.packetSize tx n := by
  cases op with
  | drain => exact mayEmit_of_mem_handlerProgram hp hf
  | instr i =>
    obtain ⟨hy, hv⟩ := hop.resolve_left nofun
    exact mayEmit_of_legal hy (legal_of_mem_instrProgram hv p hp) hr hf

/-- No primitive of an operation changes which frames the operation may make: only INIT writes the packet size, and its
frames do not depend on it. -/
theorem mayEmit_of_primFrame {op : Op} {p : Prim} {s t : State} (hp : p ∈ programOf op) (h : PrimFrame p s t) :
    op.MayEmit t.layout t.packetSize = op.MayEmit s.layout s.packetSize := by
  rw [State.layout, h.params]
  rcases h.packetSize with e | rfl
  · rw [e]
  · obtain ⟨_, _, rfl, -⟩ := setPacketSize_mem_programOf hp
    rfl

/-! ### Runs and moves -/

/-- A run from any place in an operation's program makes the operation's frames only. -/
theorem run_emitsOnly {ag : Agent} {op : Op} {ps : List Prim} {k : Nat} {l : Locals} {s : State}
    (hop : op.Sound s.layout) (hps : ∀ p ∈ ps, p ∈ programOf op) (hc : ps.IsChain Prim.MayPrecede)
    (hr : ∀ p ∈ ps.head?, p.ReadBy l) :
    EmitsOnly (op.MayEmit s.layout s.packetSize) s (run ag op k ps l s) := by
  induction ps generalizing k l s with
  | nil => exact .refl s
  | cons p ps ih =>
    have hp : p ∈ programOf op := hps p (by simp)
    have hq : ∀ q ∈ ps, q ∈ programOf op := fun q hq => hps q (by simp [hq])
    have emits {t : State} (he : (execPrim ag p l s).state = some t) :
        EmitsOnly (op.MayEmit s.layout s.packetSize) s t :=
      execPrim_emitsOnly (fun tx n => mayEmit_of_frame hop hp (hr p rfl)) he
    cases he : execPrim ag p l s with
    | done l' t =>
      have ht : (execPrim ag p l s).state = some t := by rw [he]; rfl
      have hf := execPrim_frame ht
      have hop' : op.Sound t.layout := by rwa [State.layout, hf.params]
      have hr' : ∀ q ∈ ps.head?, q.ReadBy l' := fun q hq => readBy_of_execPrim_done (hc.rel_head? hq) he
      rw [run_done he]
      exact (emits ht).trans (mayEmit_of_primFrame hp hf ▸ ih hop' hq hc.tail hr')
    | raise c t =>
      rw [run_raise he]
      exact (emits (by rw [he]; rfl)).trans (.of_finishRaise ag op c t)
    | wait =>
      rw [run_wait he]
      exact .of_setSeq ag _ s
    | hung t =>
      rw [run_hung he]
      exact (emits (by rw [he]; rfl)).trans (.of_setSeq ag _ t)
    | handedOver l' t =>
      obtain ⟨rfl, -, rfl, rfl⟩ := execPrim_handedOver he
      have hr' : ∀ q ∈ ps.head?, q.ReadBy l' := by
        rintro q hq reg w a rfl
        cases hc.rel_head? hq
      rw [run, he]
      exact (emits (by rw [he]; rfl)).trans (ih hop hq hc.tail hr')

/-- A run of an operation from its start makes the operation's frames only. -/
theorem run_programOf_emitsOnly {ag : Agent} {op : Op} {l : Locals} {s : State} (hop : op.Sound s.layout) :
    EmitsOnly (op.MayEmit s.layout s.packetSize) s (run ag op 0 (programOf op) l s) := by
  refine run_emitsOnly hop (fun _ hp => hp) (isChain_programOf op) ?_
  rintro p hp reg w a rfl
  exact absurd hp (head?_programOf_ne op)

/-- A move makes its operation's frames only. -/
theorem advanceBusy_emitsOnly {ag : Agent} {b : Busy} {s : State} (hop : b.course = .main → b.op.Sound s.layout)
    (hr : b.course = .main → ∀ p, (programOf b.op)[b.step]? = some p → p.ReadBy b.locals) :
    EmitsOnly (b.op.MayEmit s.layout s.packetSize) s (advanceBusy ag b s) := by
  cases hc : b.course with
  | hung => simp only [advanceBusy, hc]; exact .refl s
  | delivering => simp only [advanceBusy, hc]; exact .of_setSeq ag _ s
  | returning c =>
    simp only [advanceBusy, hc]
    exact .trans (.of_returnCode ag b.op c s) (.of_setSeq ag _ _)
  | raised c =>
    simp only [advanceBusy, hc]
    split <;> exact .trans (.of_setLock .free s) (.of_setSeq ag _ _)
  | main =>
    cases hp : (programOf b.op)[b.step]? with
    | none =>
      simp only [advanceBusy, hc, hp]
      exact .of_setSeq ag _ s
    | some p =>
      rcases advanceBusy_main (ag := ag) (s := s) hc hp with ⟨o, t, ht, e⟩ | e
      · rw [e]
        have hmem := List.mem_of_getElem? hp
        exact (execPrim_emitsOnly (fun tx n => mayEmit_of_frame (hop hc) hmem (hr hc p hp)) ht).trans
          (.of_setSeq ag o t)
      · rw [e]
        exact .refl s

/-! ### The step -/

theorem pipe_lt_of_pipeCheck {p : BitVec 3} (h : pipeCheck p = none) : p.toNat < Config.nPipes := by
  simpa [pipeCheck, errorIf] using h

theorem length_of_sendLengthCheck {l n : Nat} (h : sendLengthCheck l n = none) : 1 ≤ l ∧ l ≤ n := by
  simpa [sendLengthCheck, errorIf, Nat.one_le_iff_ne_zero] using h

theorem length_of_addressLengthCheck {p : BitVec 3} {l : Nat} (h : addressLengthCheck p l = none) :
    1 ≤ l ∧ l ≤ addrWidth p := by
  by_cases hp : p.toNat ≤ 1
  · simpa [addressLengthCheck_eq, addrWidth, hp] using h
  · obtain rfl : l = 1 := by simpa [addressLengthCheck_eq, hp] using h
    simp [addrWidth, hp]

/-- An operation that passed validation has the operands its frames need (60_exceptions.md R323). -/
theorem validated_of_checkOf {i : Instr} {s : State} (hs : s.packetSize ≤ Config.payloadMax)
    (h : checkOf i s = none) : (Op.instr i).validated = true := by
  cases i
  case send p a =>
    obtain ⟨h1, hn⟩ :=
      length_of_sendLengthCheck (firstError_eq_none.mp h (sendLengthCheck a.length s.packetSize) (by simp))
    simp [Op.validated, h1, hn.trans hs]
  case pipeSetAddress p a =>
    have hp := pipe_lt_of_pipeCheck (firstError_eq_none.mp h (pipeCheck p) (by simp))
    obtain ⟨h1, hw⟩ :=
      length_of_addressLengthCheck (firstError_eq_none.mp h (addressLengthCheck p a.length) (by simp))
    simp [Op.validated, hp, h1, hw]
  case pipeGetAddress p _ | pipeGetAutoack p _ | pipeSetAutoack p _ | pipeGetPayloadSize p _ |
      pipeSetPayloadSize p _ | pipeGetEnabled p _ | pipeSetEnabled p _ =>
    exact decide_eq_true (pipe_lt_of_pipeCheck (firstError_eq_none.mp h (pipeCheck p) (by simp)))
  all_goals rfl

theorem isHost_of_isOperation {i : Instr} (h : i.isOperation = true) : i.isHost = true := by
  cases i
  case rRegister | wRegister | rRxPayload | wTxPayload => cases h
  all_goals rfl

/-- The frames of the block: a read or a write of a register, the read of the RX payload or the write of a TX payload
(30_encoding.md R134 to R141). -/
def IsBlockFrame (y : Layout) (packetSize : Nat) (tx : List Byte) (n : Nat) : Prop :=
  isReadFrame y tx n ∨ isWriteFrame y tx n ∨ isRxFrame y packetSize tx n ∨ isTxFrame y tx n

theorem isWriteFrame_of_isClearFrame {y : Layout} (hy : y.wf = true) {tx : List Byte} {n : Nat}
    (h : isClearFrame y tx n) : isWriteFrame y tx n := by
  obtain ⟨rfl, rfl⟩ := h
  have hw : WellFormed.widthOf y y.regStatus = 1 := widthOf_addr hy (reg := .status) trivial
  obtain ⟨-, hopc, -⟩ := Layout.wf_opcodes hy
  exact ⟨y.regStatus, [bitMask y.rxReadyBit], hw ▸ one_ne_zero, hw.symm, rfl, rfl, (wireByte hopc _).1⟩

theorem isBlockFrame_of_mayEmit {y : Layout} (hy : y.wf = true) {size : Nat} {op : Op} {tx : List Byte} {n : Nat}
    (h : op.MayEmit y size tx n) : IsBlockFrame y size tx n := by
  cases op with
  | instr i =>
    rcases h with h | h | ⟨p, a, -, rfl, rfl, h1, h32⟩
    · exact .inl h
    · exact .inr (.inl h)
    · exact .inr (.inr (.inr ⟨a, h1, h32, rfl, rfl⟩))
  | drain =>
    rcases h with h | h
    · exact .inr (.inr (.inl h))
    · exact .inr (.inl (isWriteFrame_of_isClearFrame hy h))

/-- A host instruction answers what validation raised, or makes its frames only. -/
theorem exec_emitsOnly {i : Instr} {s t : State} (hi : i.isHost = true) (hy : s.layout.wf = true)
    (hs : s.packetSize ≤ Config.payloadMax) (h : exec i s = .next t) :
    EmitsOnly ((Op.instr i).MayEmit s.layout s.packetSize) s t := by
  rw [exec_host hi] at h
  cases hc : checkOf i s with
  | some c =>
    rw [hc] at h
    cases h
    exact .of_respond _ _ _ _
  | none =>
    rw [hc] at h
    cases h
    exact run_programOf_emitsOnly (op := .instr i) (.inr ⟨hy, validated_of_checkOf hs hc⟩)

theorem takeInterrupt_emitsOnly (s : State) :
    EmitsOnly (Op.drain.MayEmit s.layout s.packetSize) s (takeInterrupt s) := by
  unfold takeInterrupt
  split
  · exact run_programOf_emitsOnly (op := .drain) (.inl rfl)
  · exact .refl s

theorem advance_emitsOnly {s : State} (ag : Agent) (hy : s.layout.wf = true) (hs : s.sequencersOk) :
    EmitsOnly (IsBlockFrame s.layout s.packetSize) s (advance ag s) := by
  have hblock (op : Op) (tx : List Byte) (n : Nat) : op.MayEmit s.layout s.packetSize tx n → _ :=
    isBlockFrame_of_mayEmit hy
  unfold advance
  split
  · next b hb =>
    refine (advanceBusy_emitsOnly (fun hc => .inr ⟨hy, (hs ag b hb hc).1⟩) fun hc p hp => ?_).mono (hblock _)
    rintro reg w a rfl
    obtain ⟨-, ⟨hread, -⟩, -⟩ := hs ag b hb hc
    exact hread reg w a hp
  · split
    · exact .refl s
    · split
      · refine (advanceBusy_emitsOnly (fun _ => .inl rfl) ?_).mono (hblock _)
        rintro - p ⟨⟩
        exact nofun
      · exact .refl s

theorem runRequest_emitsOnly {s t : State} {a : Nat} {frame : List Byte} (hy : s.layout.wf = true)
    (hs : s.packetSize ≤ Config.payloadMax) (h : runRequest a frame s = .next t) :
    EmitsOnly (IsBlockFrame s.layout s.packetSize) s t := by
  cases ht : s.takesFrom a with
  | false =>
    rw [runRequest_of_not_taken ht] at h
    cases h
    exact .refl s
  | true =>
    cases hd : decodeHost frame with
    | error e =>
      rw [runRequest_of_error ht hd] at h
      cases h
      exact .of_respond _ _ _ _
    | ok i =>
      rw [runRequest_of_decodes ht hd] at h
      exact (exec_emitsOnly (s := { s with requester := a }) (decodeHost_isHost hd) hy hs h).mono
        fun tx n => isBlockFrame_of_mayEmit hy

theorem issue_emitsOnly {P : List Byte → Nat → Prop} (a : Nat) (frame : List Byte) (s : State) :
    EmitsOnly P s (issue a frame s) := by
  unfold issue
  split
  · exact .of_respond _ _ _ _
  · split <;> exact .of_setSeq _ _ s

theorem runWire_emitsOnly {P : List Byte → Nat → Prop} {frame : List Byte} {s t : State}
    (h : runWire frame s = .next t) : EmitsOnly P s t := by
  unfold runWire at h
  split at h
  · next i hd =>
    obtain ⟨u, hu, e⟩ := exec_wire (decodeWire_isHost hd) s
    cases hu.symm.trans h
    exact .of_trace_eq (by rw [e])
  · cases h

/-- A step makes frames of the block only. -/
theorem step_emitsOnly {s t : State} (hy : s.layout.wf = true) (hz : s.packetSizeOk) (hs : s.sequencersOk)
    (h : step s = .next t) : EmitsOnly (IsBlockFrame s.layout s.packetSize) s t := by
  unfold step at h
  split at h
  · cases h
    exact .refl s
  · next i rest _ =>
    have take : EmitsOnly (IsBlockFrame s.layout s.packetSize) s { s with agenda := rest } := .of_trace_eq rfl
    refine take.trans ?_
    cases i with
    | request a frame => exact runRequest_emitsOnly hy hz.1 h
    | wire frame => exact runWire_emitsOnly h
    | issue a frame =>
      cases h
      unfold runIssue
      split
      · exact issue_emitsOnly a frame _
      · exact .refl _
    | advance ag => cases h; exact advance_emitsOnly (s := { s with agenda := rest }) ag hy hs
    | handler =>
      cases h
      exact (takeInterrupt_emitsOnly _).mono fun tx n => isBlockFrame_of_mayEmit hy
    | sample | sampleLine => cases h; unfold sampleIrq; split <;> exact .of_trace_eq rfl
    | reception => cases h; unfold receive; split <;> exact .of_trace_eq rfl
    | transmission => cases h; unfold transmit; split <;> exact .of_trace_eq rfl
    | holdPasses | chipChange => cases h; exact .of_trace_eq rfl

/-! ### The commands the block does not use -/

/-- In the default layout the high three bits of a frame's command byte are never all set. -/
theorem commandBits_ne_of_isBlockFrame {size : Nat} {tx : List Byte} {n : Nat}
    (h : IsBlockFrame Layout.default size tx n) {b : Byte} (hb : b ∈ tx.head?) : b &&& 0xE0 ≠ 0xE0 := by
  rcases h with ⟨reg, -, -, rfl, hc⟩ | ⟨reg, v, -, -, -, rfl, hc⟩ | ⟨rfl, -⟩ | ⟨d, -, -, -, rfl⟩ <;>
    obtain rfl := Option.mem_some.mp hb
  · rw [hc]
    decide
  · rw [hc]
    decide
  · decide
  · decide

/-- Settles O52: a program's transactions are those of its primitives, each of a described register at its width or a
payload; validation and the read before an address write see to the lengths. -/
theorem framesEmittedAreTheFour : Obligations.FramesEmittedAreTheFour := by
  refine ⟨?_, ?_, ?_, ?_⟩
  · intro s t es hy hz hs h ht tx n rx hm
    exact (step_emitsOnly hy hz hs h).of_mem ht hm
  · intro i s t es hy hz hi h ht tx n rx hm
    exact ((exec_emitsOnly (isHost_of_isOperation hi) hy hz h).of_mem ht hm).2
  · intro s es ht tx n rx hm
    exact ((takeInterrupt_emitsOnly s).of_mem ht hm).2
  · intro size tx n h b hb
    have hc := commandBits_ne_of_isBlockFrame h hb
    refine ⟨?_, ?_, ?_, ?_⟩ <;> rintro rfl <;> exact hc rfl

end Sys2Proof.Machine
end

section
/-! PROOFS. What the decoders of the field table read (40_codec.md R161 to R169). -/

namespace Sys2Proof.Machine

open Sys2Proof Sys2Proof.Claims

/-! ### A field of the table -/

theorem Field.extract_eq (f : Field) (v : Byte) : f.extract v = (v >>> f.shift) &&& (f.mask >>> f.shift) :=
  BitVec.ushiftRight_and_distrib _ _ _

/-- A field of `k` adjacent bits from its shift up reads as the number in those bits. -/
theorem Field.toNat_extract {f : Field} {k : Nat} (hm : (f.mask >>> f.shift).toNat = 2 ^ k - 1) (v : Byte) :
    (f.extract v).toNat = v.toNat / 2 ^ f.shift % 2 ^ k := by
  rw [extract_eq, BitVec.toNat_and, hm, Nat.and_two_pow_sub_one_eq_mod, BitVec.toNat_ushiftRight,
    Nat.shiftRight_eq_div_pow]

theorem Field.mask_bit : ∀ b : BitVec 3, ((Field.bit b.toNat).mask >>> b.toNat).toNat = 2 ^ 1 - 1 := by decide

/-- A one-bit field reads as its bit. -/
theorem Field.extract_bit (b : BitVec 3) (v : Byte) :
    (Field.bit b.toNat).extract v = if v.getLsbD b.toNat then 1 else 0 := by
  have hv : ((Field.bit b.toNat).extract v).toNat = v.toNat / 2 ^ b.toNat % 2 := toNat_extract (mask_bit b) v
  apply BitVec.eq_of_toNat_eq
  rw [hv, BitVec.getLsbD, Nat.testBit_eq_decide_div_mod_eq]
  rcases Nat.mod_two_eq_zero_or_one (v.toNat / 2 ^ b.toNat) with h | h <;> simp [h]

/-! ### The decoders, in any layout -/

theorem decodePowerMode_eq (y : Layout) (v : Byte) : decodePowerMode y v = if v.getLsbD 1 then 1 else 0 :=
  Field.extract_bit 1 v

theorem decodeWorkingMode_eq (y : Layout) (v : Byte) :
    decodeWorkingMode y v = if v.getLsbD y.workingModeBit.toNat then 1 else 0 :=
  Field.extract_bit y.workingModeBit v

theorem toNat_decodeOutputPower (y : Layout) (v : Byte) : (decodeOutputPower y v).toNat = v.toNat / 2 % 4 :=
  Field.toNat_extract (f := ⟨0x06, 1⟩) (k := 2) rfl v

theorem decodeDataRate_eq (y : Layout) (v : Byte) :
    decodeDataRate y v = if v.getLsbD y.dataRateBit.toNat then 1 else 0 :=
  Field.extract_bit y.dataRateBit v

theorem decodeAutoAck_eq (y : Layout) (v : Byte) (p : BitVec 3) :
    decodeAutoAck y v p = if v.getLsbD p.toNat then 1 else 0 :=
  Field.extract_bit p v

theorem decodeEnabled_eq (y : Layout) (v : Byte) (p : BitVec 3) :
    decodeEnabled y v p = if v.getLsbD (enabledBit y p).toNat then 1 else 0 :=
  Field.extract_bit (enabledBit y p) v

/-! ### The positions of the default layout -/

theorem toNat_decodeChannel_default (v : Byte) : (decodeChannel Layout.default v).toNat = v.toNat % 128 := by
  have h := Field.toNat_extract (f := ⟨0x7F, 0⟩) (k := 7) rfl v
  rwa [pow_zero, Nat.div_one] at h

theorem toNat_decodePayloadSize_default (v : Byte) : (decodePayloadSize Layout.default v).toNat = v.toNat % 64 := by
  have h := Field.toNat_extract (f := ⟨0x3F, 0⟩) (k := 6) rfl v
  rwa [pow_zero, Nat.div_one] at h

theorem enabledBit_default : ∀ p : BitVec 3, enabledBit Layout.default p = p := by decide

/-- Settles O38: a field reads the bits of its mask; the default layout puts pipe p's enabled bit at p. -/
theorem decodersReadTheirBits : Obligations.DecodersReadTheirBits := by
  refine ⟨fun v p _ => ?_, fun y v p => ?_⟩
  · have he := decodeEnabled_eq Layout.default v p
    rw [enabledBit_default] at he
    exact ⟨decodePowerMode_eq _ v, decodeWorkingMode_eq _ v, toNat_decodeOutputPower _ v, decodeDataRate_eq _ v,
      toNat_decodeChannel_default v, decodeAutoAck_eq _ v p, he, toNat_decodePayloadSize_default v⟩
  · exact ⟨decodePowerMode_eq y v, decodeWorkingMode_eq y v, toNat_decodeOutputPower y v, decodeDataRate_eq y v, rfl,
      decodeAutoAck_eq y v p, decodeEnabled_eq y v p, rfl⟩

end Sys2Proof.Machine
end

section
/-! PROOFS. What a SET does: one read-modify-write of a register under the exclusion (40_codec.md R171 to R173). -/

namespace Sys2Proof.Machine

open Sys2Proof Sys2Proof.Claims

/-! ### Refusals -/

/-- An operation that a frame decodes to answers the first error of 60_exceptions.md R323, and nothing else. -/
theorem refusesErrors_of_decodes {frame : List Byte} {i : Instr} (h : decodeHost frame = .ok i) (s : State) :
    RefusesErrors i s := fun _ hc =>
  onlyAnswers_of_checkOf (decodeHost_isHost h) ((checkOf_eq_expectedError h s).trans hc)

/-- In a configured block the frame and state checks of a one-byte device SET pass; its value check decides (R323). -/
theorem deviceSet_check {s : State} (hs : s.configured) (v : Byte) (c : Option Status) :
    firstError [deviceFrame 0 [v] 1, faultedCheck s, initializedCheck s, c] = c := by
  obtain ⟨⟨-, hf⟩, hi⟩ := hs
  simp [firstError_cons_none, firstError_singleton, deviceFrame_eq, WellFormed.device, faultedCheck_eq,
    initializedCheck_eq, hf, hi]

/-- In a configured block the state and pipe checks of a PIPE_SET_ADDRESS of one of the six pipes pass; its length check
decides (R323). -/
theorem pipeSetAddress_check {s : State} (hs : s.configured) {p : BitVec 3} (hp : p.toNat ≤ 5) (a : List Byte) :
    checkOf (.pipeSetAddress p a) s = addressLengthCheck p a.length := by
  obtain ⟨⟨-, hf⟩, hi⟩ := hs
  simp [checkOf, checkPipeSetAddress, firstError_cons_none, firstError_singleton, faultedCheck_eq, initializedCheck_eq,
    pipeCheck_eq, hf, hi, Nat.not_lt.mpr hp]

/-! ### A transaction that does not complete -/

theorem requester_of_txn_failed {tx : List Byte} {n : Nat} {s t : State} (h : txn tx n s = .failed t) :
    t.requester = s.requester := by
  rw [txn_failed h]

theorem requester_of_txn_hung {tx : List Byte} {n : Nat} {s t : State} (h : txn tx n s = .hung t) :
    t.requester = s.requester := by
  rw [txn_hung h]

/-- At a bus error the requesting agent's operation frees the exclusion and answers E_BUS (60_exceptions.md R313). -/
theorem afterTxn_failed_eq_busError {a : Nat} {i : Instr} {k : Nat} {ps : List Prim} {l : Locals}
    {f : List Byte → Locals} {t : State} (ha : t.requester = a) :
    .next (afterTxn (.host a) (.instr i) k ps l f (.failed t)) = busError t := by
  subst ha
  rfl

/-- At a transaction that never completes it stays where it is (R315). -/
theorem afterTxn_hung_eq_stuck {a : Nat} {i : Instr} {k : Nat} {ps : List Prim} {rx : List Byte}
    {f : List Byte → Locals} {t : State} (ha : t.requester = a) :
    .next (afterTxn (.host a) (.instr i) k ps ⟨rx, false⟩ f (.hung t)) = stuck i k rx t := by
  subst ha
  rfl

/-! ### The read-modify-write -/

/-- The primitive is one write of the register; its bytes depend on the layout and on the bytes read. -/
def Prim.WritesBack (p : Prim) (reg : Reg) (new : Layout → List Byte → List Byte) : Prop :=
  ∀ ag l s, execPrim ag p l s = busPrim (s.writeFrame reg (new s.layout l.bytes)) 0 (fun _ => l) s

theorem Prim.writesBack_writeField (reg : Reg) (f : FieldName) (v : Byte) :
    (Prim.writeField reg f v).WritesBack reg (fun y rx => [(y.field f).put (rx.headD 0) v]) := fun _ _ _ => rfl

theorem Prim.writesBack_writeAddr (reg : Reg) (w : Nat) (a : List Byte) :
    (Prim.writeAddr reg w a).WritesBack reg (fun _ rx => addrMerge w a rx) := fun _ _ _ => rfl

/-- A SET whose validation passes is the read and the write with the exclusion held, whatever the environment
answers. -/
theorem setsInEveryEnvironment {i : Instr} {reg : Reg} {n : Nat} {p : Prim} {new : Layout → List Byte → List Byte}
    {s : State} (hi : i.isHost = true) (hp : instrProgram i = shell [.memRead reg n, p] .nothing)
    (hw : p.WritesBack reg new) (hs : s.ready) (hc : checkOf i s = none) :
    SetsInEveryEnvironment i (s.layout.addr reg) n (new s.layout) s := by
  obtain ⟨hl, hf⟩ := hs
  have hread : (s.setLock (.held (.host s.requester))).readFrame reg =
      [s.layout.opcRRegister + (s.layout.addr reg).setWidth 8] := rfl
  rw [SetsInEveryEnvironment, exec_host hi, hc, hp, locked]
  dsimp only
  rw [run_shell hl hf, List.cons_append, run_memRead, hread]
  cases hr : txn _ n (s.setLock (.held (.host s.requester))) with
  | failed t => exact afterTxn_failed_eq_busError (requester_of_txn_failed hr :)
  | hung t => exact afterTxn_hung_eq_stuck (requester_of_txn_hung hr :)
  | completed rx t =>
    obtain ⟨hb, -, -⟩ := txn_completed hr
    have ht : t.layout = s.layout := congrArg Params.layout hb.params
    have hwrite : t.writeFrame reg (new t.layout rx) =
        (s.layout.opcWRegister + (s.layout.addr reg).setWidth 8) :: new s.layout rx := by
      rw [State.writeFrame, ht]
      rfl
    rw [afterTxn_completed, List.singleton_append, run_busPrim (hw _ _ _), hwrite]
    dsimp only
    cases hu : txn _ 0 t with
    | failed u => exact afterTxn_failed_eq_busError ((requester_of_txn_failed hu).trans hb.requester)
    | hung u => exact afterTxn_hung_eq_stuck ((requester_of_txn_hung hu).trans hb.requester)
    | completed rx' u =>
      obtain ⟨hb', -, -⟩ := txn_completed hu
      have hq : u.requester = s.requester := hb'.requester.trans hb.requester
      rw [afterTxn_completed, run_release, run_respond_host, run_nil]
      dsimp only
      rw [answered, hq]
      rfl

/-! ### With the reference chip -/

/-- A register write the reference chip takes is one event and the register written (20_memory.md R109, R110). -/
theorem txn_write {s : State} (h : s.onReference) (reg : Reg) {v : List Byte} (hv : v.length ≤ Config.payloadMax) :
    txn (s.writeFrame reg v) 0 s =
      .completed [] ((s.setChip (s.chip.writeReg s.layout (s.layout.addr reg) v)).emit
        (writeEvent s.layout (s.layout.addr reg) v)) := by
  obtain ⟨ha, hy⟩ := h
  exact txn_eq_completed.mpr ⟨_, busOutcome_write ha hy _ v hv, rfl⟩

/-- The state between a SET's two transactions. -/
def afterRead (s : State) (reg : BitVec 5) : State :=
  (locked s).emit (readEvent s.layout reg (s.chip.readReg s.layout reg))

theorem txn_read_locked {s : State} (h : s.onReference) (reg : Reg) :
    txn [s.layout.opcRRegister + (s.layout.addr reg).setWidth 8] (regWidth s.layout (s.layout.addr reg)) (locked s) =
      .completed (s.chip.readReg s.layout (s.layout.addr reg)) (afterRead s (s.layout.addr reg)) :=
  txn_read (h.setLock (.held (.host s.requester))) reg

theorem txn_write_afterRead {s : State} (h : s.onReference) (reg : Reg) {v : List Byte}
    (hv : v.length ≤ Config.payloadMax) :
    txn ((s.layout.opcWRegister + (s.layout.addr reg).setWidth 8) :: v) 0 (afterRead s (s.layout.addr reg)) =
      .completed [] (((afterRead s (s.layout.addr reg)).setChip (s.chip.writeReg s.layout (s.layout.addr reg) v)).emit
        (writeEvent s.layout (s.layout.addr reg) v)) :=
  txn_write (s := afterRead s (s.layout.addr reg)) h reg hv

/-- A SET's events over the exclusion taken and freed are the state the statements name. -/
theorem answered_afterRead {s : State} (hl : s.lock = .free) (reg : BitVec 5) (new : List Byte) :
    answered (((afterRead s reg).setChip (s.chip.writeReg s.layout reg new)).emit (writeEvent s.layout reg new)) .ok
      [] = .next (afterSet s reg new) := by
  simp [answered, afterRead, locked, State.setLock, State.respond, State.emit, State.setChip, afterSet, ← hl]

/-- A SET the reference chip answers is the two transactions, the response and the register written (40_codec.md R171,
R173). -/
theorem exec_set_reference {i : Instr} {reg : Reg} {n : Nat} {new : List Byte → List Byte} {s : State}
    (h : SetsInEveryEnvironment i (s.layout.addr reg) n new s) (hl : s.lock = .free) (hr : s.onReference)
    (hn : regWidth s.layout (s.layout.addr reg) = n)
    (hv : (new (s.chip.readReg s.layout (s.layout.addr reg))).length ≤ Config.payloadMax) :
    exec i s = .next (afterSet s (s.layout.addr reg) (new (s.chip.readReg s.layout (s.layout.addr reg)))) := by
  subst hn
  rw [SetsInEveryEnvironment, txn_read_locked hr] at h
  dsimp only at h
  rw [txn_write_afterRead hr reg hv] at h
  exact h.trans (answered_afterRead hl _ _)

/-- A SET of a field of a one-byte register inserts the value into the byte read (40_codec.md R171). -/
theorem setsField {i : Instr} {reg : Reg} {f : FieldName} {v : Byte} {s : State} (hi : i.isHost = true)
    (hp : instrProgram i = shell (rmw1 reg f v) .nothing)
    (hn : s.layout.wf = true → regWidth s.layout (s.layout.addr reg) = 1) (hc : s.configured → checkOf i s = none) :
    SetsField i (s.layout.addr reg) (s.layout.field f).mask (s.layout.field f).shift v s := by
  intro hs
  have hready : s.ready := hs.1
  have he := setsInEveryEnvironment hi hp (Prim.writesBack_writeField reg f v) hready (hc hs)
  refine ⟨he, fun hr => ?_⟩
  have hw := hn hr.2
  rw [exec_set_reference he hready.1 hr hw (show 1 ≤ 32 by decide), Chip.readReg_of_width_one _ hw]
  rfl

/-! ### SET_POWER_MODE -/

/-- Settles O17: power mode is a field of CONFIG, and a mode is 0 or 1. -/
theorem setPowerModeWritesBitOne : Obligations.SetPowerModeWritesBitOne := by
  refine ⟨rfl, fun m s => ?_⟩
  have hd : decodeHost [0x40, 0x01, m] = .ok (.setPowerMode 0 [m]) := rfl
  have hc : s.configured → checkOf (.setPowerMode 0 [m]) s = if m.toNat > 1 then some .enumValue else none :=
    fun hs => (deviceSet_check hs m _).trans (enumCheck_eq 1 m.toNat)
  refine ⟨hd, refusesErrors_of_decodes hd s, fun hs hm => ?_, fun hm => ?_⟩
  · exact onlyAnswers_of_checkOf rfl ((hc hs).trans (if_pos hm))
  · exact setsField (reg := .config) (f := .powerMode) rfl rfl regWidth_config
      fun hs => (hc hs).trans (if_neg (Nat.not_lt.mpr hm))

/-! ### PIPE_SET_ADDRESS -/

/-- The number of address bytes PIPE_SET_ADDRESS takes for a pipe (43_pipe.md R272). -/
def LegalAddressLength (p : BitVec 3) (n : Nat) : Prop := if p.toNat ≤ 1 then 1 ≤ n ∧ n ≤ 5 else n = 1

theorem addressLengthCheck_of_legal {p : BitVec 3} {n : Nat} (h : LegalAddressLength p n) :
    addressLengthCheck p n = none := by
  rw [addressLengthCheck_eq]
  unfold LegalAddressLength at h
  split_ifs at h ⊢ <;> rfl

theorem addressLengthCheck_of_not_legal {p : BitVec 3} {n : Nat} (h : ¬LegalAddressLength p n) :
    addressLengthCheck p n = some .addressLength := by
  rw [addressLengthCheck_eq]
  unfold LegalAddressLength at h
  split_ifs at h ⊢ <;> rfl

theorem addrWidth_le (p : BitVec 3) : addrWidth p ≤ 5 := by
  unfold addrWidth
  split <;> decide

/-- The frame of PIPE_SET_ADDRESS (30_encoding.md R121, R125). -/
theorem decodeHost_pipeSetAddress (p : BitVec 3) {a : List Byte} (ha : a.length ≤ 255) :
    decodeHost ((0x88 ||| p.setWidth 8) :: BitVec.ofNat 8 a.length :: a) = .ok (.pipeSetAddress p a) := by
  have hp : ∀ p : BitVec 3, 0x88 ||| p.setWidth 8 = (0x11 : BitVec 5) ++ p := by decide
  rw [hp]
  exact decodeHost_encodeHost 0x11 p ha

theorem setsInEveryEnvironment_pipeSetAddress {p : BitVec 3} {a : List Byte} {s : State} (hs : s.configured)
    (hp : p.toNat ≤ 5) (hl : addressLengthCheck p a.length = none) :
    SetsInEveryEnvironment (.pipeSetAddress p a) (s.layout.addr (.rxAddr p)) (addrWidth p)
      (addrMerge (addrWidth p) a) s :=
  setsInEveryEnvironment (new := fun _ => addrMerge (addrWidth p) a) rfl rfl (Prim.writesBack_writeAddr _ _ a) hs.1
    ((pipeSetAddress_check hs hp a).trans hl)

/-- The read takes the whole register, so every byte of it after the new ones is written back (43_pipe.md R272). -/
theorem exec_pipeSetAddress_reference {p : BitVec 3} {a : List Byte} {s : State} (hs : s.configured)
    (hp : p.toNat ≤ 5) (hl : addressLengthCheck p a.length = none) (hr : s.onReference) :
    exec (.pipeSetAddress p a) s = .next (afterSet s (s.layout.addr (.rxAddr p))
      (a ++ (s.chip.readReg s.layout (s.layout.addr (.rxAddr p))).drop a.length)) := by
  have hready : s.ready := hs.1
  have hn := regWidth_rxAddr hr.2 hp
  have hlen := (Chip.length_readReg s.chip s.layout (s.layout.addr (.rxAddr p))).trans hn
  obtain ⟨-, ha⟩ := length_of_addressLengthCheck hl
  have hmax : addrWidth p ≤ Config.payloadMax := (addrWidth_le p).trans (by decide)
  rw [exec_set_reference (setsInEveryEnvironment_pipeSetAddress hs hp hl) hready.1 hr hn
    ((length_addrMerge ha hlen).trans_le hmax), addrMerge, List.take_of_length_le hlen.le]

/-- Settles O24: the operation merges its bytes into the address register, which it reads at its full width. -/
theorem pipeSetAddressReplacesTheLowBytes : Obligations.PipeSetAddressReplacesTheLowBytes := by
  refine ⟨rfl, fun p a s hs hp => ⟨fun hn => ?_, fun hlegal => ?_⟩⟩
  · exact onlyAnswers_of_checkOf rfl
      ((pipeSetAddress_check hs hp a).trans (addressLengthCheck_of_not_legal hn))
  · have hl := addressLengthCheck_of_legal hlegal
    have ha : a.length ≤ 5 := (length_of_addressLengthCheck hl).2.trans (addrWidth_le p)
    exact ⟨decodeHost_pipeSetAddress p (by omega), setsInEveryEnvironment_pipeSetAddress hs hp hl,
      exec_pipeSetAddress_reference hs hp hl⟩

end Sys2Proof.Machine
end

section
/-! PROOFS. The device SETs and GETs: a value check and one read-modify-write, or one read (41_device_config.md R193 to
R201). -/

namespace Sys2Proof.Machine

open Sys2Proof Sys2Proof.Claims

/-! ### The SETs -/

/-- What every one-byte device SET does: its frame decodes to it, R323's errors are its whole effect, a value above the
largest is refused, and any other goes into its field. -/
theorem deviceSet_settled {frame : List Byte} {i : Instr} {v : Byte} {largest : Nat} {c : Status} {reg : Reg}
    {f : FieldName} {s : State} (hd : decodeHost frame = .ok i)
    (hp : instrProgram i = shell (rmw1 reg f v) .nothing)
    (hn : s.layout.wf = true → regWidth s.layout (s.layout.addr reg) = 1)
    (hc : s.configured → checkOf i s = if v.toNat > largest then some c else none) :
    decodeHost frame = .ok i ∧ RefusesErrors i s ∧ (s.configured → v.toNat > largest → OnlyAnswers i s c) ∧
      (v.toNat ≤ largest →
        SetsField i (s.layout.addr reg) (s.layout.field f).mask (s.layout.field f).shift v s) := by
  have hi := decodeHost_isHost hd
  refine ⟨hd, refusesErrors_of_decodes hd s, fun hs hv => ?_, fun hv => ?_⟩
  · exact onlyAnswers_of_checkOf hi ((hc hs).trans (if_pos hv))
  · exact setsField hi hp hn fun hs => (hc hs).trans (if_neg (Nat.not_lt.mpr hv))

/-- Settles O14: the channel is a field of RF_CH, and a channel is at most 127. -/
theorem setChannelWritesTheChannel : Obligations.SetChannelWritesTheChannel := by
  refine ⟨rfl, rfl, fun ch s => ?_⟩
  exact deviceSet_settled (reg := .rfCh) (f := .channel) rfl rfl regWidth_rfCh
    fun hs => (deviceSet_check hs ch _).trans (channelCheck_eq ch.toNat)

/-- Settles O15: the output power is a field of RF_SETUP, and a power is 0 to 3. -/
theorem setOutputPowerWritesBitsTwoToOne : Obligations.SetOutputPowerWritesBitsTwoToOne := by
  refine ⟨rfl, fun pw s => ?_⟩
  exact deviceSet_settled (reg := .rfSetup) (f := .outputPower) rfl rfl regWidth_rfSetup
    fun hs => (deviceSet_check hs pw _).trans (enumCheck_eq 3 pw.toNat)

/-- Settles O16: the data rate is a bit of RF_SETUP, and a rate is 0 or 1. -/
theorem setDataRateWritesBitThree : Obligations.SetDataRateWritesBitThree := by
  refine ⟨rfl, rfl, fun r s => ?_⟩
  exact deviceSet_settled (reg := .rfSetup) (f := .dataRate) rfl rfl regWidth_rfSetup
    fun hs => (deviceSet_check hs r _).trans (enumCheck_eq 1 r.toNat)

/-! ### The GETs -/

/-- A GET whose validation passes is one read with the exclusion held and answers with what it read, whatever the
environment answers. -/
theorem getsInEveryEnvironment {i : Instr} {reg : Reg} {n : Nat} {ret : Ret} {s : State} (hi : i.isHost = true)
    (hp : instrProgram i = shell [.memRead reg n] ret) (hs : s.ready) (hc : checkOf i s = none) :
    GetsInEveryEnvironment i (s.layout.addr reg) n (fun rx => ret.data s.layout ⟨rx, false⟩) s := by
  obtain ⟨hl, hf⟩ := hs
  have hread : (s.setLock (.held (.host s.requester))).readFrame reg =
      [s.layout.opcRRegister + (s.layout.addr reg).setWidth 8] := rfl
  rw [GetsInEveryEnvironment, exec_host hi, hc, hp, locked]
  dsimp only
  rw [run_shell hl hf, List.singleton_append, run_memRead, hread]
  cases hr : txn _ n (s.setLock (.held (.host s.requester))) with
  | failed t => exact afterTxn_failed_eq_busError (requester_of_txn_failed hr :)
  | hung t => exact afterTxn_hung_eq_stuck (requester_of_txn_hung hr :)
  | completed rx t =>
    obtain ⟨hb, -, -⟩ := txn_completed hr
    have ht : t.layout = s.layout := congrArg Params.layout hb.params
    have hq : t.requester = s.requester := hb.requester
    rw [afterTxn_completed, run_release, run_respond_host, run_nil]
    dsimp only
    rw [answered, hq, ← ht]
    rfl

/-- A GET of a field of a one-byte register, in every environment and with the reference chip. -/
theorem getsField {i : Instr} {reg : Reg} {f : FieldName} {s : State} (hi : i.isHost = true)
    (hp : instrProgram i = shell [.memRead reg 1] (.field f))
    (hn : s.layout.wf = true → regWidth s.layout (s.layout.addr reg) = 1) (hc : s.configured → checkOf i s = none) :
    GetsField i (s.layout.addr reg) (s.layout.field f).mask (s.layout.field f).shift s := by
  intro hs
  exact ⟨getsInEveryEnvironment hi hp hs.1 (hc hs), fun hr => exec_getField hi hp (hn hr.2) hs hr (hc hs)⟩

/-- What every device GET does: its frame decodes to it, R323's errors are its whole effect, and it reads its field. -/
theorem deviceGet_settled {frame : List Byte} {i : Instr} {reg : Reg} {f : FieldName} {s : State}
    (hd : decodeHost frame = .ok i) (hp : instrProgram i = shell [.memRead reg 1] (.field f))
    (hn : s.layout.wf = true → regWidth s.layout (s.layout.addr reg) = 1)
    (hc : checkOf i s = firstError [deviceFrame 0 [] 0, faultedCheck s, initializedCheck s]) :
    decodeHost frame = .ok i ∧ RefusesErrors i s ∧
      GetsField i (s.layout.addr reg) (s.layout.field f).mask (s.layout.field f).shift s :=
  ⟨hd, refusesErrors_of_decodes hd s,
    getsField (decodeHost_isHost hd) hp hn fun hs => hc.trans (deviceGet_check hs)⟩

/-- Settles O18: each of the five reads the register its field lies in. -/
theorem deviceGetsReadTheChip : Obligations.DeviceGetsReadTheChip := by
  refine ⟨⟨rfl, rfl, rfl, rfl, rfl, rfl⟩, fun s => ?_, fun s => ?_, fun s => ?_, fun s => ?_, fun s => ?_⟩
  · exact deviceGet_settled (reg := .rfCh) (f := .channel) rfl rfl regWidth_rfCh rfl
  · exact deviceGet_settled (reg := .rfSetup) (f := .outputPower) rfl rfl regWidth_rfSetup rfl
  · exact deviceGet_settled (reg := .rfSetup) (f := .dataRate) rfl rfl regWidth_rfSetup rfl
  · exact deviceGet_settled (reg := .config) (f := .powerMode) rfl rfl regWidth_config rfl
  · exact deviceGet_settled (reg := .config) (f := .workingMode) rfl rfl regWidth_config rfl

end Sys2Proof.Machine
end

section
/-! PROOFS. A read-modify-write that the reference chip answers, and INIT, which makes five of them (40_codec.md R171,
41_device_config.md R192). -/

namespace Sys2Proof.Machine

open Sys2Proof Sys2Proof.Claims

/-! ### The registers the device operations write -/

/-- The one-byte registers of no pipe, STATUS apart (10_state.md R50). -/
def Reg.control : List Reg := [.config, .enAa, .enRxaddr, .rfCh, .rfSetup]

theorem Reg.ne_status_of_mem_control {reg : Reg} (h : reg ∈ Reg.control) : reg ≠ .status := by
  rintro rfl
  exact absurd h (by decide)

theorem regWidth_control {y : Layout} (hy : y.wf = true) {reg : Reg} (h : reg ∈ Reg.control) :
    regWidth y (y.addr reg) = 1 := by
  rw [regWidth_eq]
  fin_cases h <;> exact widthOf_addr hy trivial

/-- In a layout a chip can have, no two of them share an address, and none has that of STATUS. -/
theorem Layout.addr_ne {y : Layout} (hy : y.wf = true) {a b : Reg} (ha : a ∈ Reg.control ++ [Reg.status])
    (hb : b ∈ Reg.control ++ [Reg.status]) (hab : a ≠ b) : y.addr a ≠ y.addr b := by
  have hn : (WellFormed.addresses y).Nodup := by
    simp only [Layout.wf, Bool.and_eq_true, decide_eq_true_eq] at hy
    tauto
  rw [WellFormed.addresses_eq] at hn
  have hmap : ((Reg.control ++ [Reg.status]).map y.addr).Nodup := (hn.sublist (List.take_sublist 6 _) :)
  exact fun e => hab (List.inj_on_of_nodup_map hmap ha hb e)

theorem Layout.addr_ne_status {y : Layout} (hy : y.wf = true) {reg : Reg} (h : reg ∈ Reg.control) :
    y.addr reg ≠ y.regStatus :=
  Layout.addr_ne hy (b := .status) (List.mem_append_left _ h) (by decide) (Reg.ne_status_of_mem_control h)

/-- A register read after a write of it is the byte written. -/
theorem Chip.regByte_writeReg_self (c : Chip) {y : Layout} (hy : y.wf = true) {reg : Reg} (h : reg ∈ Reg.control)
    (v : Byte) : (c.writeReg y (y.addr reg) [v]).regByte (y.addr reg) = v := by
  have hlen : 0 < [v].length := Nat.zero_lt_one
  have hwidth : 0 < WellFormed.widthOf y (y.addr reg) := by
    rw [← regWidth_eq, regWidth_control hy h]
    exact Nat.zero_lt_one
  exact Chip.read_writeReg_inside c (Layout.addr_ne_status hy h) hlen hwidth

/-- Another register reads as before. -/
theorem Chip.regByte_writeReg_ne (c : Chip) {y : Layout} (hy : y.wf = true) {reg q : Reg}
    (h : reg ∈ Reg.control ∧ q ∈ Reg.control ∧ q ≠ reg) (v : Byte) :
    (c.writeReg y (y.addr reg) [v]).regByte (y.addr q) = c.regByte (y.addr q) := by
  obtain ⟨hreg, hq, hne⟩ := h
  have haddr : y.addr q ≠ y.addr reg :=
    Layout.addr_ne hy (List.mem_append_left _ hq) (List.mem_append_left _ hreg) hne
  have hnum : (y.addr q).toNat ≠ (y.addr reg).toNat := fun e => haddr (BitVec.eq_of_toNat_eq e)
  refine Chip.read_writeReg_outside c (Layout.addr_ne_status hy hreg) ?_
  rw [List.length_singleton, regCell]
  omega

/-! ### The read-modify-write -/

/-- The state after the reference chip has answered a read-modify-write of a one-byte register that held `old`. -/
def State.rewritten (s : State) (y : Layout) (reg : Reg) (old new : Byte) : State :=
  { s with
    chip := s.chip.writeReg y (y.addr reg) [new]
    trace := s.trace ++ [readEvent y (y.addr reg) [old], writeEvent y (y.addr reg) [new]] }

@[simp] theorem State.rewritten_trace (s : State) (y : Layout) (reg : Reg) (old new : Byte) :
    (s.rewritten y reg old new).trace =
      s.trace ++ [readEvent y (y.addr reg) [old], writeEvent y (y.addr reg) [new]] := rfl

/-- With the reference chip answering, a read-modify-write goes on to the next primitive. -/
theorem run_rmw1_reference {ag : Agent} {op : Op} {k : Nat} {ps : List Prim} {l : Locals} {s : State} {y : Layout}
    {reg : Reg} {f : FieldName} {v old : Byte} (hreg : reg ∈ Reg.control) (h : s.onReference ∧ s.layout = y)
    (hold : s.chip.regByte (y.addr reg) = old) :
    run ag op k (rmw1 reg f v ++ ps) l s =
      run ag op (k + 2) ps ⟨[old], l.deliver⟩ (s.rewritten y reg old ((y.field f).put old v)) := by
  obtain ⟨h, rfl⟩ := h
  subst hold
  have hn := regWidth_control h.2 hreg
  have hv : [(s.layout.field f).put (s.chip.regByte (s.layout.addr reg)) v].length ≤ Config.payloadMax :=
    show 1 ≤ 32 by decide
  have hwrite := txn_write (s := s.emit (readEvent s.layout (s.layout.addr reg)
    [s.chip.regByte (s.layout.addr reg)])) h reg hv
  rw [rmw1, List.cons_append, run_memRead_reference h hn, List.singleton_append, run_writeField,
    Chip.readReg_of_width_one _ hn]
  refine (congrArg (afterTxn ag op (k + 1) ps _ _) hwrite).trans ?_
  simp [State.rewritten, State.emit, State.setChip]

/-- An operation without a result answers OK and no data. -/
theorem run_respond_nothing {op : Op} {k n : Nat} {ps : List Prim} {l : Locals} {s : State} :
    run (.host n) op k (.respond .nothing :: ps) l s = run (.host n) op (k + 1) ps l (s.respond n .ok []) := rfl

/-- Two states that agree in the exclusion, the chip and the trace, and differ in nothing else. -/
theorem State.eq_of_lock_chip_trace {s t : State}
    (h : s = { t with lock := s.lock, chip := s.chip, trace := s.trace }) (hl : s.lock = t.lock)
    (hc : s.chip = t.chip) (ht : s.trace = t.trace) : s = t := by
  rw [h, hl, hc, ht]

/-! ### INIT -/

/-- In an uninitialised block that is not faulted, validation passes an INIT whose four arguments are in range
(60_exceptions.md R323). -/
theorem init_check {n ch pw r : Byte} {s : State} (hs : s.ready) (hu : s.fsm = .uninitialized) (hn : n.toNat ≤ 32)
    (hch : ch.toNat ≤ 127) (hpw : pw.toNat ≤ 3) (hr : r.toNat ≤ 1) :
    checkOf (.init 0 [n, ch, pw, r]) s = none := by
  obtain ⟨-, hf⟩ := hs
  simp [checkOf, checkInit, firstError_eq_none, deviceFrame_eq, WellFormed.device, faultedCheck_eq,
    uninitializedCheck_eq, payloadSizeCheck_eq, channelCheck_eq, enumCheck_eq, argNat, arg, hf, hu, hn, hch, hpw, hr]

/-- INIT's program, read-modify-write by read-modify-write (41_device_config.md R192). -/
theorem bodyInit_append (n ch pw r : Byte) (ps : List Prim) :
    bodyInit 0 [n, ch, pw, r] ++ ps =
      .checkUninitialized :: .setPacketSize n.toNat :: (rmw1 .rfSetup .outputPower pw ++
        (rmw1 .rfSetup .dataRate r ++ (rmw1 .rfCh .channel ch ++ (rmw1 .config .workingMode 1 ++
          (rmw1 .config .powerMode 1 ++
            (.delay .initSettle :: .setCe true :: .arm :: .setFsm .configuredRx :: ps)))))) :=
  rfl

/-- An INIT whose validation passes, with the reference chip: RF_SETUP twice, RF_CH, CONFIG twice, then the block's
fields. -/
theorem exec_init_reference {n ch pw r : Byte} {s : State} (hs : s.ready) (hu : s.fsm = .uninitialized)
    (hc : checkOf (.init 0 [n, ch, pw, r]) s = none) (href : s.onReference) :
    exec (.init 0 [n, ch, pw, r]) s = .next (afterInit s n ch pw r) := by
  obtain ⟨hl, hf⟩ := hs
  have hy : s.layout.wf = true := href.2
  have hlocked : (s.setLock (.held (.host s.requester))).fsm = .uninitialized := hu
  rw [exec_host rfl, hc]
  refine congrArg Host.Outcome.next ?_
  refine Eq.trans (run_shell hl hf) ?_
  rw [bodyInit_append, run_checkUninitialized hlocked, run_setPacketSize]
  refine Eq.trans (run_rmw1_reference (y := s.layout) (by decide) ⟨href, rfl⟩ rfl) ?_
  refine Eq.trans (run_rmw1_reference (y := s.layout) (by decide) ⟨href, rfl⟩
    (Chip.regByte_writeReg_self _ hy (by decide) _)) ?_
  refine Eq.trans (run_rmw1_reference (y := s.layout) (by decide) ⟨href, rfl⟩
    ((Chip.regByte_writeReg_ne _ hy (by decide) _).trans
      (Chip.regByte_writeReg_ne _ hy (by decide) _))) ?_
  refine Eq.trans (run_rmw1_reference (y := s.layout) (by decide) ⟨href, rfl⟩
    ((Chip.regByte_writeReg_ne _ hy (by decide) _).trans
      ((Chip.regByte_writeReg_ne _ hy (by decide) _).trans
        (Chip.regByte_writeReg_ne _ hy (by decide) _)))) ?_
  refine Eq.trans (run_rmw1_reference (y := s.layout) (by decide) ⟨href, rfl⟩
    (Chip.regByte_writeReg_self _ hy (by decide) _)) ?_
  rw [run_delay, run_setCe, run_arm, run_setFsm, run_release, run_respond_nothing, run_nil]
  refine State.eq_of_lock_chip_trace rfl hl.symm rfl ?_
  simp only [State.respond_trace, State.setLock_trace, State.driveCe_trace, State.doDelay_trace,
    State.rewritten_trace, List.append_assoc]
  rfl

/-- Settles O12: INIT is five read-modify-writes, each of the register as the earlier ones left it. -/
theorem initConfiguresTheBlock : Obligations.InitConfiguresTheBlock := by
  refine ⟨⟨rfl, rfl, rfl, rfl, rfl, rfl⟩, fun n ch pw r s => ⟨rfl, fun hs hu hn hch hpw hr href => ?_⟩⟩
  exact exec_init_reference hs hu (init_check hs hu hn hch hpw hr) href

end Sys2Proof.Machine
end

section
/-! PROOFS. SEND with the reference chip: the switch to Transmit, the transmission, the switch back
(42_transmit_receive.md R231). -/

namespace Sys2Proof.Machine

open Sys2Proof Sys2Proof.Claims

/-! ### The payload write -/

@[simp] theorem Chip.txFifo_writeReg (c : Chip) (y : Layout) (r : BitVec 5) (v : List Byte) :
    (c.writeReg y r v).txFifo = c.txFifo := by
  unfold Chip.writeReg
  split
  · cases v <;> rfl
  · rfl

@[simp] theorem Chip.held_writeReg (c : Chip) (y : Layout) (r : BitVec 5) (v : List Byte) :
    (c.writeReg y r v).held = c.held := by
  unfold Chip.writeReg
  split
  · cases v <;> rfl
  · rfl

/-- What a payload write leaves: the TX FIFO, how many payloads of it are held, and how many free values it took. -/
structure TxQueue where
  fifo : List (List Byte)
  held : Nat
  taken : Nat

/-- The payload write of `d` to the reference chip, when `free` values have been taken (20_memory.md R112, log entries
11 and 14). -/
def Chip.queue (c : Chip) (free : Nat) (d : List Byte) : TxQueue :=
  if c.txFifo.length < Config.fifoDepth then ⟨c.txFifo ++ [d], c.held, 0⟩
  else
    ⟨(Config.freeTxFifo free).take Config.fifoDepth,
      min c.held ((Config.freeTxFifo free).take Config.fifoDepth).length, 1⟩

theorem Chip.queue_of_room {c : Chip} (h : c.txFifo.length < 3) (free : Nat) (d : List Byte) :
    c.queue free d = ⟨c.txFifo ++ [d], c.held, 0⟩ := if_pos h

theorem Chip.queue_of_full {c : Chip} (h : 3 ≤ c.txFifo.length) (free : Nat) (d : List Byte) :
    c.queue free d = ⟨(Config.freeTxFifo free).take 3, min c.held ((Config.freeTxFifo free).take 3).length, 1⟩ :=
  if_neg (Nat.not_lt.mpr h)

theorem Chip.queue_writeReg (c : Chip) (y : Layout) (r : BitVec 5) (v : List Byte) (free : Nat) (d : List Byte) :
    (c.writeReg y r v).queue free d = c.queue free d := by
  simp [Chip.queue]

/-- The state after a payload write that leaves `q`. -/
def State.queued (s : State) (y : Layout) (d : List Byte) (q : TxQueue) : State :=
  { s with
    chip := { s.chip with txFifo := q.fifo, held := q.held }
    free := s.free + q.taken
    trace := s.trace ++ [.txn (y.opcWTxPayload :: d) 0 []] }

@[simp] theorem State.queued_trace (s : State) (y : Layout) (d : List Byte) (q : TxQueue) :
    (s.queued y d q).trace = s.trace ++ [.txn (y.opcWTxPayload :: d) 0 []] := rfl

/-- A payload write the reference chip takes (R112). -/
theorem txn_writeTx {s : State} (h : s.onReference) {d : List Byte} (hd : d.length ≤ Config.payloadMax) :
    txn (encodeCmd s.layout.opcWTxPayload 0 d) 0 s =
      .completed [] (s.queued s.layout d (s.chip.queue s.free d)) := by
  obtain ⟨ha, hy⟩ := h
  rw [txn, busOutcome_reference ha, referenceTxn, chipAnswer, decodeWire_writeTx hy d hd, encodeCmd_zero]
  dsimp only
  unfold State.queued Chip.queue
  split <;> rfl

/-- With the reference chip answering, a payload write goes on to the next primitive. -/
theorem run_writeTx_reference {ag : Agent} {op : Op} {k : Nat} {ps : List Prim} {l : Locals} {s : State} {y : Layout}
    {d : List Byte} {q : TxQueue} (hd : d.length ≤ Config.payloadMax) (h : s.onReference ∧ s.layout = y)
    (hq : s.chip.queue s.free d = q) :
    run ag op k (.writeTx d :: ps) l s = run ag op (k + 1) ps l (s.queued y d q) := by
  obtain ⟨h, rfl⟩ := h
  rw [run_writeTx, txn_writeTx h hd, afterTxn_completed, hq]

/-! ### The hold -/

/-- A hold in Transmit mode counts the whole TX FIFO as held if the chip is powered up (R115). -/
theorem Chip.noteHold_of_transmit {c : Chip} {y : Layout} (h : (c.config y).getLsbD y.workingModeBit.toNat = false) :
    c.noteHold y true = { c with held := if (c.config y).getLsbD 1 then c.txFifo.length else c.held } := by
  have hw : decodeWorkingMode y (c.config y) = 0 := by rw [decodeWorkingMode_eq, h]; rfl
  rw [Chip.noteHold, Chip.isUp, hw, decodePowerMode_eq]
  cases (c.config y).getLsbD 1 <;> rfl

/-- A one-bit field into which 0 is put reads 0. -/
theorem Field.getLsbD_put_bit_zero (b : BitVec 3) (old : Byte) :
    ((Field.bit b.toNat).put old 0).getLsbD b.toNat = false := by
  have hm : (Field.bit b.toNat).mask.getLsbD b.toNat = true := by
    revert b
    decide
  simp [Field.put, hm]

/-! ### The transmission -/

/-- SEND between its two switches of the working mode. -/
def transmission (d : List Byte) : List Prim :=
  [.setFsm .configuredTx, .setCe false, .writeTx d, .setCe true, .delay .ceHold, .setCe false]

/-- The state after the transmission of `d`, when CONFIG holds `config` and the payload write leaves `q`. -/
def State.transmitted (s : State) (y : Layout) (d : List Byte) (config : Byte) (q : TxQueue) : State :=
  { s with
    fsm := .configuredTx
    ce := false
    chip := { s.chip with txFifo := q.fifo, held := if config.getLsbD 1 then q.fifo.length else q.held }
    free := s.free + q.taken
    trace := s.trace ++ [.ce false, .txn (y.opcWTxPayload :: d) 0 [], .ce true, .delay .ceHold, .ce false] }

@[simp] theorem State.transmitted_trace (s : State) (y : Layout) (d : List Byte) (config : Byte) (q : TxQueue) :
    (s.transmitted y d config q).trace =
      s.trace ++ [.ce false, .txn (y.opcWTxPayload :: d) 0 [], .ce true, .delay .ceHold, .ce false] := rfl

/-- With the reference chip answering in Transmit mode, the transmission goes on to the switch back. -/
theorem run_transmission_reference {ag : Agent} {op : Op} {k : Nat} {ps : List Prim} {l : Locals} {s : State}
    {y : Layout} {d : List Byte} {config : Byte} {q : TxQueue} (hd : d.length ≤ Config.payloadMax)
    (h : s.onReference ∧ s.layout = y) (hq : s.chip.queue s.free d = q) (hcfg : s.chip.config y = config)
    (hw : config.getLsbD y.workingModeBit.toNat = false) :
    run ag op k (transmission d ++ ps) l s = run ag op (k + 6) ps l (s.transmitted y d config q) := by
  obtain ⟨hr, rfl⟩ := h
  subst hcfg
  have hp : transmission d ++ ps = .setFsm .configuredTx :: .setCe false :: .writeTx d :: .setCe true ::
    .delay .ceHold :: .setCe false :: ps := rfl
  rw [hp, run_setFsm, run_setCe]
  refine Eq.trans (run_writeTx_reference (y := s.layout) hd ⟨hr, rfl⟩ hq) ?_
  rw [run_setCe, run_delay, run_setCe]
  refine congrArg (run ag op (k + 6) ps l)
    (State.eq_of_lock_chip_trace rfl rfl (Chip.noteHold_of_transmit hw) ?_)
  simp only [State.driveCe_trace, State.doDelay_trace, State.queued_trace, State.transmitted_trace, List.append_assoc]
  rfl

/-- Where SEND has left chip-enable low, its last step leaves it as CE_AFTER_SEND says. -/
theorem run_ceAfterSend_of_low {ag : Agent} {op : Op} {k : Nat} {ps : List Prim} {l : Locals} {s : State}
    (h : s.ce = false) :
    run ag op k (.ceAfterSend :: ps) l s =
      run ag op (k + 1) ps l { s with
        ce := s.params.ceAfterSendHigh
        trace := s.trace ++ if s.params.ceAfterSendHigh then [.ce true] else [] } := by
  rw [run_ceAfterSend]
  cases s.params.ceAfterSendHigh
  · rw [if_neg Bool.false_ne_true, if_neg Bool.false_ne_true, List.append_nil, ← h]
  · rfl

/-! ### SEND -/

/-- In a configured block validation of SEND is its length check (60_exceptions.md R323). -/
theorem send_check {s : State} (hs : s.configured) (d : List Byte) :
    checkOf (.send 0 d) s = sendLengthCheck d.length s.packetSize := by
  obtain ⟨⟨-, hf⟩, hi⟩ := hs
  simp [checkOf, checkSend, firstError_cons_none, firstError_singleton, deviceFrameAnyLength_eq, faultedCheck_eq,
    initializedCheck_eq, hf, hi]

/-- SEND's program: the switch to Transmit, the transmission, the switch back. -/
theorem bodySend_append (d : List Byte) (ps : List Prim) :
    bodySend 0 d ++ ps =
      rmw1 .config .workingMode 0 ++ (transmission d ++ (rmw1 .config .workingMode 1 ++
        (.setFsm .configuredRx :: .ceAfterSend :: ps))) := rfl

/-- A SEND whose validation passes, with the reference chip: the two switches are read-modify-writes of CONFIG. -/
theorem exec_send_reference {d : List Byte} {s : State} {q : TxQueue} (hs : s.ready) (href : s.onReference)
    (hc : checkOf (.send 0 d) s = none) (hd : d.length ≤ Config.payloadMax) (hq : s.chip.queue s.free d = q) :
    exec (.send 0 d) s = .next (afterSend s d q.fifo q.held q.taken) := by
  obtain ⟨hl, hf⟩ := hs
  have hy : s.layout.wf = true := href.2
  rw [exec_host rfl, hc]
  refine congrArg Host.Outcome.next ?_
  refine Eq.trans (run_shell hl hf) ?_
  rw [bodySend_append]
  refine Eq.trans (run_rmw1_reference (y := s.layout) (by decide) ⟨href, rfl⟩ rfl) ?_
  refine Eq.trans (run_transmission_reference (y := s.layout) hd ⟨href, rfl⟩
    ((Chip.queue_writeReg s.chip _ _ _ _ _).trans hq)
    (Chip.regByte_writeReg_self _ hy (reg := .config) (by decide) _) (Field.getLsbD_put_bit_zero _ _)) ?_
  refine Eq.trans (run_rmw1_reference (y := s.layout) (by decide) ⟨href, rfl⟩
    (Chip.regByte_writeReg_self _ hy (reg := .config) (by decide) _)) ?_
  rw [run_setFsm, run_ceAfterSend_of_low rfl, run_release, run_respond_nothing, run_nil]
  refine State.eq_of_lock_chip_trace rfl hl.symm rfl ?_
  simp only [State.respond_trace, State.setLock_trace, State.rewritten_trace, State.transmitted_trace,
    afterSend, List.append_assoc]
  rfl

/-- Settles O19: a payload of a legal length is written to the TX FIFO between the two switches. -/
theorem sendRunsItsSequence : Obligations.SendRunsItsSequence := by
  refine ⟨fun d s hs href h1 hn hmax => ?_, fun d s hs hd => ?_⟩
  · have hc : checkOf (.send 0 d) s = none := by
      rw [send_check hs, sendLengthCheck_eq, if_neg (by omega)]
    have hd : d.length ≤ Config.payloadMax := hn.trans hmax
    refine ⟨fun hroom => ?_, fun hfull => ?_⟩
    · have hrun := exec_send_reference hs.1 href hc hd (Chip.queue_of_room hroom s.free d)
      exact hrun
    · have hrun := exec_send_reference hs.1 href hc hd (Chip.queue_of_full hfull s.free d)
      exact ⟨_, List.length_take_le _ _, hrun⟩
  · refine onlyAnswers_of_checkOf rfl ((send_check hs d).trans ?_)
    rw [sendLengthCheck_eq, if_pos hd]

end Sys2Proof.Machine
end

section
/-! PROOFS. The pipe accessors: one read, or a value check and one read-modify-write, of the register of the pipe
(43_pipe.md R271 to R280). -/

namespace Sys2Proof.Machine

open Sys2Proof Sys2Proof.Claims

/-! ### The frames -/

/-- The frame of a pipe operation: byte 0 is the op code's with the pipe's number in its low three bits (30_encoding.md
R121, R125). -/
theorem decodeHost_pipeFrame (op : BitVec 5) (p : BitVec 3) {a : List Byte} (ha : a.length ≤ 255) :
    decodeHost (((op ++ (0 : BitVec 3)) ||| p.setWidth 8) :: BitVec.ofNat 8 a.length :: a) =
      .ok (hostInstr op p a) := by
  have hbyte : ∀ (op : BitVec 5) (p : BitVec 3), (op ++ (0 : BitVec 3)) ||| p.setWidth 8 = op ++ p := by decide
  rw [hbyte]
  exact decodeHost_encodeHost op p ha

/-! ### Validation -/

/-- In a configured block the frame, state and pipe checks of a one-byte SET of one of the six pipes pass; its value
check decides (60_exceptions.md R323). -/
theorem pipeSet_check {s : State} (hs : s.configured) {p : BitVec 3} (hp : p.toNat ≤ 5) (v : Byte)
    (c : Option Status) :
    firstError [pipeFrame [v] 1, faultedCheck s, initializedCheck s, pipeCheck p, c] = c := by
  obtain ⟨⟨-, hf⟩, hi⟩ := hs
  simp [firstError_cons_none, firstError_singleton, pipeFrame_eq, WellFormed.pipeOp, faultedCheck_eq,
    initializedCheck_eq, pipeCheck_eq, hf, hi, Nat.not_lt.mpr hp]

/-! ### PIPE_GET_ADDRESS -/

/-- Settles O23: the operation is one read of the pipe's address register at its full width. -/
theorem pipeGetAddressReturnsTheRegister : Obligations.PipeGetAddressReturnsTheRegister := by
  refine ⟨rfl, fun p s => ?_⟩
  have hd : decodeHost [0x80 ||| p.setWidth 8, 0x00] = .ok (.pipeGetAddress p []) :=
    decodeHost_pipeFrame 0x10 p (Nat.zero_le 255)
  refine ⟨hd, refusesErrors_of_decodes hd s, fun hs hp => ?_⟩
  have hc : checkOf (.pipeGetAddress p []) s = none := pipeGet_check hs hp
  refine ⟨?_, fun hr => ?_⟩
  · exact getsInEveryEnvironment (reg := .rxAddr p) (ret := .bytes) rfl rfl hs.1 hc
  · exact exec_get (reg := .rxAddr p) (ret := .bytes) rfl rfl (regWidth_rxAddr hr.2 hp) hs hr hc

/-! ### The accessors of a field -/

/-- What the GET and the SET of a pipe's field do: their frames decode to them, R323's errors are their whole effect, and
for the six pipes the GET reads the field, the SET refuses a value above the largest and puts any other into the
field. -/
theorem pipeAccessors_settled {getFrame setFrame : List Byte} {get set : Instr} {p : BitVec 3} {v : Byte}
    {largest : Nat} {c : Status} {valueCheck : Option Status} {reg : Reg} {f : FieldName} {s : State}
    (hget : decodeHost getFrame = .ok get) (hset : decodeHost setFrame = .ok set)
    (hgetProgram : instrProgram get = shell [.memRead reg 1] (.field f))
    (hsetProgram : instrProgram set = shell (rmw1 reg f v) .nothing)
    (hn : p.toNat ≤ 5 → s.layout.wf = true → regWidth s.layout (s.layout.addr reg) = 1)
    (hgetCheck : checkOf get s = firstError [pipeFrame [] 0, faultedCheck s, initializedCheck s, pipeCheck p])
    (hsetCheck : checkOf set s =
      firstError [pipeFrame [v] 1, faultedCheck s, initializedCheck s, pipeCheck p, valueCheck])
    (hvalue : valueCheck = if v.toNat > largest then some c else none) :
    decodeHost getFrame = .ok get ∧ decodeHost setFrame = .ok set ∧ RefusesErrors get s ∧ RefusesErrors set s ∧
      (p.toNat ≤ 5 →
        GetsField get (s.layout.addr reg) (s.layout.field f).mask (s.layout.field f).shift s ∧
        (s.configured → v.toNat > largest → OnlyAnswers set s c) ∧
        (v.toNat ≤ largest →
          SetsField set (s.layout.addr reg) (s.layout.field f).mask (s.layout.field f).shift v s)) := by
  refine ⟨hget, hset, refusesErrors_of_decodes hget s, refusesErrors_of_decodes hset s, fun hp => ?_⟩
  obtain ⟨-, -, hrefused, hwritten⟩ := deviceSet_settled hset hsetProgram (hn hp)
    fun hs => hsetCheck.trans ((pipeSet_check hs hp v _).trans hvalue)
  refine ⟨?_, hrefused, hwritten⟩
  exact getsField (decodeHost_isHost hget) hgetProgram (hn hp) fun hs => hgetCheck.trans (pipeGet_check hs hp)

/-- Settles O25: auto-ack is bit p of EN_AA, and a flag is 0 or 1. -/
theorem pipeAutoackIsBitPOfEnAa : Obligations.PipeAutoackIsBitPOfEnAa := by
  refine ⟨rfl, fun p f s => ?_⟩
  exact pipeAccessors_settled (reg := .enAa) (f := .autoAck p) (decodeHost_pipeFrame 0x12 p (Nat.zero_le 255))
    (decodeHost_pipeFrame 0x13 p (a := [f]) (Nat.le_add_left 1 254)) rfl rfl (fun _ => regWidth_enAa) rfl
    rfl (enumCheck_eq 1 f.toNat)

/-- Settles O26: the payload size is a field of RX_PW_Pp, and a size is at most 32. -/
theorem pipePayloadSizeIsTheLowSixBits : Obligations.PipePayloadSizeIsTheLowSixBits := by
  refine ⟨rfl, rfl, fun p n s => ?_⟩
  exact pipeAccessors_settled (reg := .rxPw p) (f := .payloadSize) (decodeHost_pipeFrame 0x14 p (Nat.zero_le 255))
    (decodeHost_pipeFrame 0x15 p (a := [n]) (Nat.le_add_left 1 254)) rfl rfl (fun hp hy => regWidth_rxPw hy hp) rfl
    rfl (payloadSizeCheck_eq n.toNat)

/-- Settles O27: enabled is the pipe's bit of EN_RXADDR, and a flag is 0 or 1. -/
theorem pipeEnabledIsBitPOfEnRxaddr : Obligations.PipeEnabledIsBitPOfEnRxaddr := by
  refine ⟨rfl, rfl, fun p f s => ?_⟩
  exact pipeAccessors_settled (reg := .enRxaddr) (f := .enabled p) (decodeHost_pipeFrame 0x16 p (Nat.zero_le 255))
    (decodeHost_pipeFrame 0x17 p (a := [f]) (Nat.le_add_left 1 254)) rfl rfl (fun _ => regWidth_enRxaddr) rfl
    rfl (enumCheck_eq 1 f.toNat)

/-! ### What a SET of one bit changes -/

theorem getLsbD_bitMask (b : BitVec 3) (j : Nat) : (bitMask b).getLsbD j = decide (j = b.toNat) := by
  have hb : b.toNat < 8 := b.isLt
  have hm : bitMask b = BitVec.twoPow 8 b.toNat := rfl
  rw [hm, BitVec.getLsbD_twoPow, decide_eq_true hb, Bool.true_and]
  exact decide_eq_decide.mpr eq_comm

/-- An insertion under the mask of one bit keeps every other bit (40_codec.md R170). -/
theorem onlyBit_insertBits (b : BitVec 3) (old val : Byte) :
    onlyBit b.toNat old (insertBits old (bitMask b) b.toNat val) := by
  intro j hj
  have hm : (bitMask b).getLsbD j = false := (getLsbD_bitMask b j).trans (decide_eq_false hj)
  simp only [insertBits, BitVec.getLsbD_or, BitVec.getLsbD_and, BitVec.getLsbD_not, hm, Bool.not_false, Bool.and_true,
    Bool.and_false, Bool.or_false]
  by_cases h8 : j < 8
  · rw [decide_eq_true h8, Bool.and_true]
  · rw [BitVec.getLsbD_of_ge _ _ (not_lt.mp h8), Bool.false_and]

/-- The events of a SET of a one-byte register: no write of the register if a transaction did not complete, else the
read, the write of the new byte and the response. -/
theorem events_of_setsInEveryEnvironment {i : Instr} {reg : BitVec 5} {new : Byte → Byte} {s t : State}
    (h : SetsInEveryEnvironment i reg 1 (fun rx => [new (rx.headD 0)]) s) (ht : exec i s = .next t) :
    ∃ es, t.trace = s.trace ++ es ∧ ((∀ v, writeEvent s.layout reg [v] ∉ es) ∨
      ∃ old, es = [readEvent s.layout reg [old], writeEvent s.layout reg [new old], .resp s.requester .ok []]) := by
  rw [SetsInEveryEnvironment, ht] at h
  cases hr : txn [s.layout.opcRRegister + reg.setWidth 8] 1 (locked s) with
  | failed u =>
    rw [hr] at h
    cases h
    exact ⟨[.resp u.requester .bus []], by rw [txn_failed hr]; rfl, .inl (by simp [writeEvent])⟩
  | hung u =>
    rw [hr] at h
    cases h
    exact ⟨[], by rw [txn_hung hr]; simp [locked], .inl (by simp)⟩
  | completed rx u =>
    obtain ⟨hb, hu, hlen⟩ := txn_completed hr
    obtain ⟨old, rfl⟩ := List.length_eq_one_iff.mp hlen
    rw [hr] at h
    dsimp only at h
    cases hw : txn [s.layout.opcWRegister + reg.setWidth 8, new old] 0 u with
    | failed w =>
      rw [List.headD_cons, hw] at h
      cases h
      refine ⟨[readEvent s.layout reg [old], .resp w.requester .bus []], ?_, .inl (by simp [readEvent, writeEvent])⟩
      rw [txn_failed hw]
      exact (congrArg (· ++ [_]) hu).trans (List.append_assoc _ _ _)
    | hung w =>
      rw [List.headD_cons, hw] at h
      cases h
      refine ⟨[readEvent s.layout reg [old]], ?_, .inl (by simp [readEvent, writeEvent])⟩
      rw [txn_hung hw, State.setSeq_trace]
      exact hu
    | completed rx' w =>
      obtain ⟨hb', hw', hlen'⟩ := txn_completed hw
      obtain rfl := List.length_eq_zero_iff.mp hlen'
      rw [List.headD_cons, hw] at h
      cases h
      have hq : w.requester = s.requester := hb'.requester.trans hb.requester
      refine ⟨_, ?_, .inr ⟨old, rfl⟩⟩
      rw [State.respond_trace, State.setLock_trace, hw', hu, hq, List.append_assoc, List.append_assoc]
      rfl

/-- Where the events of a SET of a one-byte register show the read and then the write, the byte written is the new byte
of the one read. -/
theorem written_eq_of_setsInEveryEnvironment {i : Instr} {reg : BitVec 5} {new : Byte → Byte} {s t : State}
    (h : SetsInEveryEnvironment i reg 1 (fun rx => [new (rx.headD 0)]) s) (ht : exec i s = .next t)
    {pre post : List Event} {old v : Byte}
    (he : t.trace = s.trace ++ pre ++ [readEvent s.layout reg [old], writeEvent s.layout reg [v]] ++ post) :
    v = new old := by
  obtain ⟨es, hes, hcases⟩ := events_of_setsInEveryEnvironment h ht
  have hsplit : es = pre ++ [readEvent s.layout reg [old], writeEvent s.layout reg [v]] ++ post := by
    refine List.append_cancel_left (hes.symm.trans ?_)
    rw [he]
    simp only [List.append_assoc]
  rcases hcases with hno | ⟨old', rfl⟩
  · exact absurd (hsplit ▸ by simp) (hno v)
  · rcases pre with _ | ⟨_, _ | ⟨_, _ | ⟨_, _⟩⟩⟩
    · obtain ⟨rfl, rfl, -⟩ : old' = old ∧ new old' = v ∧ _ = post := by simpa [readEvent, writeEvent] using hsplit
      rfl
    all_goals simp [readEvent, writeEvent] at hsplit

/-- A SET of one bit of a register alters no other bit: neither from the byte read to the byte written, whatever the
environment answers, nor in the reference chip's register. -/
theorem onlyBit_of_setsField {i : Instr} {reg : Reg} {b : BitVec 3} {v : Byte} {s t : State}
    (h : SetsField i (s.layout.addr reg) (bitMask b) b.toNat v s) (hreg : reg ∈ Reg.control) (hs : s.configured)
    (ht : exec i s = .next t) :
    (∀ pre old new post, t.trace = s.trace ++ pre ++
      [readEvent s.layout (s.layout.addr reg) [old], writeEvent s.layout (s.layout.addr reg) [new]] ++ post →
      onlyBit b.toNat old new) ∧
    (s.onReference →
      onlyBit b.toNat (s.chip.regByte (s.layout.addr reg)) (t.chip.regByte (s.layout.addr reg))) := by
  obtain ⟨hevery, href⟩ := h hs
  refine ⟨fun pre old new post he => ?_, fun hr => ?_⟩
  · obtain rfl := written_eq_of_setsInEveryEnvironment (new := fun old => insertBits old (bitMask b) b.toNat v)
      hevery ht he
    exact onlyBit_insertBits b old v
  · obtain rfl := Host.Outcome.next.inj ((href hr).symm.trans ht)
    have hnew : (afterSet s (s.layout.addr reg)
        [insertBits (s.chip.regByte (s.layout.addr reg)) (bitMask b) b.toNat v]).chip.regByte (s.layout.addr reg) =
          insertBits (s.chip.regByte (s.layout.addr reg)) (bitMask b) b.toNat v :=
      Chip.regByte_writeReg_self s.chip hr.2 hreg _
    rw [hnew]
    exact onlyBit_insertBits b _ v

/-- Settles O28: the two SETs are insertions under the mask of the pipe's bit, into EN_AA and into EN_RXADDR. -/
theorem settingOnePipesBitAltersNoOther : Obligations.SettingOnePipesBitAltersNoOther := by
  intro p f s t hp hf hs
  obtain ⟨-, hautoack⟩ := pipeAutoackIsBitPOfEnAa
  obtain ⟨-, -, henabled⟩ := pipeEnabledIsBitPOfEnRxaddr
  obtain ⟨-, -, -, -, hautoack⟩ := hautoack p f s
  obtain ⟨-, -, -, -, henabled⟩ := henabled p f s
  obtain ⟨-, -, hautoack⟩ := hautoack hp
  obtain ⟨-, -, henabled⟩ := henabled hp
  exact ⟨onlyBit_of_setsField (reg := .enAa) (hautoack hf) (by decide) hs,
    onlyBit_of_setsField (reg := .enRxaddr) (henabled hf) (by decide) hs⟩

/-! ### The payload size set and got -/

/-- In a layout a chip can have, no payload-size register has the address of STATUS (10_state.md R50). -/
theorem Layout.addr_rxPw_ne_status {y : Layout} (hy : y.wf = true) {p : BitVec 3} (hp : p.toNat ≤ 5) :
    y.addr (.rxPw p) ≠ y.regStatus := by
  have hn : (WellFormed.addresses y).Nodup := by
    simp only [Layout.wf, Bool.and_eq_true, decide_eq_true_eq] at hy
    tauto
  have hrxPw : y.addr (.rxPw p) ∈ (List.range 6).map (fun p => y.regRxPwP0 + BitVec.ofNat 5 p) :=
    List.mem_map.mpr ⟨p.toNat, List.mem_range.mpr (Nat.lt_succ_of_le hp), by rw [BitVec.ofNat_toNat]; rfl⟩
  intro h
  exact List.disjoint_of_nodup_append hn (by simp) (h ▸ hrxPw)

/-- A payload-size register read after a write of it is the byte written. -/
theorem Chip.regByte_writeReg_rxPw (c : Chip) {y : Layout} (hy : y.wf = true) {p : BitVec 3} (hp : p.toNat ≤ 5)
    (v : Byte) : (c.writeReg y (y.addr (.rxPw p)) [v]).regByte (y.addr (.rxPw p)) = v := by
  have hlen : 0 < [v].length := Nat.zero_lt_one
  have hwidth : 0 < WellFormed.widthOf y (y.addr (.rxPw p)) := by
    rw [← regWidth_eq, regWidth_rxPw hy hp]
    exact Nat.zero_lt_one
  exact Chip.read_writeReg_inside c (Layout.addr_rxPw_ne_status hy hp) hlen hwidth

/-- A field that keeps a value reads, after the value is put into it, as the value (40_codec.md R161, R170). -/
theorem Field.extract_put_of_keeps {f : Field} {largest : Nat} (h : WellFormed.keeps f largest = true) {v : Byte}
    (hv : v.toNat ≤ largest) (old : Byte) : f.extract (f.put old v) = v := by
  have hmask : f.put old v &&& f.mask = (v <<< f.shift) &&& f.mask := by
    unfold Field.put
    ext i hi
    simp only [BitVec.getElem_and, BitVec.getElem_or, BitVec.getElem_not]
    cases f.mask[i] <;> simp
  have hkept := of_decide_eq_true (List.all_eq_true.mp h v.toNat (List.mem_range.mpr (Nat.lt_succ_of_le hv)))
  rwa [BitVec.ofNat_toNat, BitVec.setWidth_eq, ← hmask] at hkept

theorem Layout.keeps_payloadSizeField {y : Layout} (hy : y.wf = true) :
    WellFormed.keeps y.payloadSizeField 32 = true :=
  ((Bool.and_eq_true _ _).mp hy).2

/-- With the reference chip, PIPE_SET_PAYLOAD_SIZE puts a legal size into the field of the pipe's register (43_pipe.md
R276). -/
theorem exec_pipeSetPayloadSize_reference {p : BitVec 3} {n : Byte} {s : State} (hp : p.toNat ≤ 5)
    (hn : n.toNat ≤ 32) (hs : s.configured) (hr : s.onReference) :
    exec (.pipeSetPayloadSize p [n]) s = .next (afterSet s (s.layout.addr (.rxPw p))
      [(s.layout.field .payloadSize).put (s.chip.regByte (s.layout.addr (.rxPw p))) n]) := by
  obtain ⟨-, -, hsize⟩ := pipePayloadSizeIsTheLowSixBits
  obtain ⟨-, -, -, -, hset⟩ := hsize p n s
  obtain ⟨-, -, hset⟩ := hset hp
  obtain ⟨-, href⟩ := hset hn hs
  exact href hr

/-- With the reference chip, PIPE_GET_PAYLOAD_SIZE reads the field of the pipe's register (R275). -/
theorem exec_pipeGetPayloadSize_reference {p : BitVec 3} {s : State} (hp : p.toNat ≤ 5) (hs : s.configured)
    (hr : s.onReference) :
    exec (.pipeGetPayloadSize p []) s = .next (afterGet s (s.layout.addr (.rxPw p))
      [(s.layout.field .payloadSize).extract (s.chip.regByte (s.layout.addr (.rxPw p)))]) :=
  exec_getField rfl rfl (regWidth_rxPw hr.2 hp) hs hr (pipeGet_check hs hp)

theorem getLast?_trace_afterGet (s : State) (reg : BitVec 5) (data : List Byte) :
    (afterGet s reg data).trace.getLast? = some (.resp s.requester .ok data) := by
  simp [afterGet]

/-- Settles O29: the GET reads the register the SET wrote, and the field keeps every size up to 32. -/
theorem payloadSizeRoundTrips : Obligations.PayloadSizeRoundTrips := by
  intro p n s hp hn hs hr
  refine ⟨_, _, exec_pipeSetPayloadSize_reference hp hn hs hr, exec_pipeGetPayloadSize_reference hp hs hr, ?_⟩
  have hgot : (s.layout.field .payloadSize).extract
      ((s.chip.writeReg s.layout (s.layout.addr (.rxPw p))
        [(s.layout.field .payloadSize).put (s.chip.regByte (s.layout.addr (.rxPw p))) n]).regByte
          (s.layout.addr (.rxPw p))) = n := by
    rw [Chip.regByte_writeReg_rxPw _ hr.2 hp]
    exact Field.extract_put_of_keeps (Layout.keeps_payloadSizeField hr.2) hn _
  rw [getLast?_trace_afterGet]
  exact congrArg (fun v => some (Event.resp s.requester .ok [v])) hgot

end Sys2Proof.Machine
end

section
/-! PROOFS. How the run of an operation can end, and what a primitive, a run and a move leave of the block. -/

namespace Sys2Proof.Machine

open Sys2Proof

/-! ### How a run can end -/

/-- The locals and the state a primitive that completes leaves, none for one that does not. Run at once, a `Deliver`
completes when it has handed its packet over (log entry 18). -/
def PrimOut.completed : PrimOut → Option (Locals × State)
  | .done l t => some (l, t)
  | .handedOver l t => some (l, t)
  | .raise _ _ => none
  | .wait => none
  | .hung _ => none

theorem PrimOut.state_of_completed {o : PrimOut} {l : Locals} {t : State} (h : o.completed = some (l, t)) :
    o.state = some t := by
  cases o <;> cases h <;> rfl

/-- All primitives of a list complete, one after the other, and leave these locals and this state. -/
inductive Completes (ag : Agent) : List Prim → Locals → State → Locals → State → Prop
  | nil {l : Locals} {s : State} : Completes ag [] l s l s
  | cons {p : Prim} {ps : List Prim} {l l' l'' : Locals} {s t u : State}
      (h : (execPrim ag p l s).completed = some (l', t)) (hps : Completes ag ps l' t l'' u) :
      Completes ag (p :: ps) l s l'' u

/-- How the run of primitives `ps`, with `qs` after them, can go: all of `ps` complete and `qs` run, or one of `ps`
raises, waits or hangs, those before it having completed. -/
inductive RunEnds (ag : Agent) (op : Op) (k : Nat) (ps qs : List Prim) (l : Locals) (s : State) : State → Prop
  | goesOn {l' : Locals} {t : State} (h : Completes ag ps l s l' t) :
      RunEnds ag op k ps qs l s (run ag op (k + ps.length) qs l' t)
  | raises {past rest : List Prim} {p : Prim} {l' : Locals} {u t : State} {c : Status}
      (hps : ps = past ++ p :: rest) (h : Completes ag past l s l' u) (hp : execPrim ag p l' u = .raise c t) :
      RunEnds ag op k ps qs l s (finishRaise ag op c t)
  | waits {past rest : List Prim} {p : Prim} {l' : Locals} {u : State}
      (hps : ps = past ++ p :: rest) (h : Completes ag past l s l' u) (hp : execPrim ag p l' u = .wait) :
      RunEnds ag op k ps qs l s (u.setSeq ag (some ⟨op, k + past.length, l', .main⟩))
  | hangs {past rest : List Prim} {p : Prim} {l' : Locals} {u t : State}
      (hps : ps = past ++ p :: rest) (h : Completes ag past l s l' u) (hp : execPrim ag p l' u = .hung t) :
      RunEnds ag op k ps qs l s (t.setSeq ag (some ⟨op, k + past.length, l', .hung⟩))

/-- The run goes on after a primitive that completes. -/
theorem RunEnds.cons {ag : Agent} {op : Op} {k : Nat} {p : Prim} {ps qs : List Prim} {l l' : Locals} {s t v : State}
    (h : (execPrim ag p l s).completed = some (l', t)) (hv : RunEnds ag op (k + 1) ps qs l' t v) :
    RunEnds ag op k (p :: ps) qs l s v := by
  have hk (past : List Prim) : k + 1 + past.length = k + (p :: past).length := by
    rw [List.length_cons]
    omega
  cases hv with
  | goesOn hc =>
    rw [hk]
    exact .goesOn (.cons h hc)
  | raises hps hc hp => exact .raises (congrArg (p :: ·) hps) (.cons h hc) hp
  | waits hps hc hp =>
    rw [hk]
    exact .waits (congrArg (p :: ·) hps) (.cons h hc) hp
  | hangs hps hc hp =>
    rw [hk]
    exact .hangs (congrArg (p :: ·) hps) (.cons h hc) hp

theorem run_append_ends (ag : Agent) (op : Op) (k : Nat) (ps qs : List Prim) (l : Locals) (s : State) :
    RunEnds ag op k ps qs l s (run ag op k (ps ++ qs) l s) := by
  induction ps generalizing k l s with
  | nil => exact .goesOn .nil
  | cons p ps ih =>
    rw [List.cons_append]
    cases he : execPrim ag p l s with
    | done l' t =>
      rw [run_done he]
      exact .cons (by rw [he]; rfl) (ih _ _ _)
    | handedOver l' t =>
      rw [run, he]
      exact .cons (by rw [he]; rfl) (ih _ _ _)
    | raise c t =>
      rw [run_raise he]
      exact .raises (past := []) rfl .nil he
    | wait =>
      rw [run_wait he]
      exact .waits (past := []) rfl .nil he
    | hung t =>
      rw [run_hung he]
      exact .hangs (past := []) rfl .nil he

/-- A whole program's run ends when all of it has completed. -/
theorem run_ends (ag : Agent) (op : Op) (k : Nat) (ps : List Prim) (l : Locals) (s : State) :
    RunEnds ag op k ps [] l s (run ag op k ps l s) := by
  simpa using run_append_ends ag op k ps [] l s

/-! ### The exclusion -/

/-- The exclusion as `ag` leaves it in a phase. -/
def Phase.lock (ag : Agent) : Phase → Lock
  | .before => .free
  | .inside => .held ag
  | .after => .free

theorem execPrim_completed_lock {ag : Agent} {p : Prim} {l l' : Locals} {s t : State} (hs : s.lock = p.phase.lock ag)
    (h : (execPrim ag p l s).completed = some (l', t)) : t.lock = p.nextPhase.lock ag := by
  by_cases ha : p = .acquire
  · subst ha
    have hl : s.lock = .free := hs
    simp only [execPrim, if_pos hl] at h
    cases h
    rfl
  by_cases hr : p = .release
  · subst hr
    cases h
    rfl
  · rw [(execPrim_frame (PrimOut.state_of_completed h)).lock ha hr, Prim.nextPhase_of_ne ha hr, hs]

theorem Completes.lock {ag : Agent} {ps : List Prim} {l l' : Locals} {s t : State} {φ ψ : Phase}
    (h : Completes ag ps l s l' t) (hφ : ps.foldlM Phase.next φ = some ψ) (hs : s.lock = φ.lock ag) :
    t.lock = ψ.lock ag := by
  induction h generalizing φ with
  | nil =>
    cases hφ
    exact hs
  | cons hp _ ih =>
    rw [List.foldlM_cons] at hφ
    obtain ⟨χ, hχ, hφ⟩ := Option.bind_eq_some_iff.mp hφ
    obtain ⟨rfl, rfl⟩ := Phase.next_eq_some.mp hχ
    exact ih hφ (execPrim_completed_lock hs hp)

/-- The primitives before one of a program lead to its phase. -/
theorem Op.foldlM_past {op : Op} {past rest : List Prim} {p : Prim} (h : programOf op = past ++ p :: rest) :
    past.foldlM Phase.next .before = some p.phase := by
  have hp : (programOf op)[past.length]? = some p := by simp [h]
  have ht : (programOf op).take past.length = past := by simp [h]
  rw [← (Op.phaseAt_getElem hp).1, Op.phaseAt, ht]

/-- An operation that finds the exclusion free leaves it free, unless a transaction of it hangs: then its agent holds it
and stands there (60_exceptions.md R315). -/
theorem run_programOf_lock {ag : Agent} {op : Op} {l : Locals} {s t : State} (hl : s.lock = .free)
    (ht : run ag op 0 (programOf op) l s = t) :
    t.lock = .free ∨ t.lock = .held ag ∧ ∃ b, t.seqOf ag = some b ∧ b.course = .hung := by
  have hends := run_ends ag op 0 (programOf op) l s
  rw [ht] at hends
  cases hends with
  | goesOn h =>
    obtain ⟨φ, hφ, hne⟩ := programOf_phases op
    have hlock := h.lock hφ hl
    cases φ with
    | inside => exact absurd rfl hne
    | before | after => exact .inl hlock
  | raises => exact .inl (returnCode_lock _ _ _ _)
  | waits hps h hp =>
    obtain ⟨rfl, hne⟩ := execPrim_wait hp
    exact absurd (h.lock (Op.foldlM_past hps) hl) hne
  | hangs hps h hp =>
    obtain ⟨hφ, hφ'⟩ := execPrim_raise_or_hung (.inr hp)
    have hlock := h.lock (Op.foldlM_past hps) hl
    have hf := execPrim_frame (by rw [hp]; rfl)
    have hkeep := hf.lock (by rintro rfl; cases hφ) (by rintro rfl; cases hφ')
    refine .inr ⟨?_, _, State.seqOf_setSeq_self _ _ _, rfl⟩
    rw [State.setSeq_lock, hkeep, hlock, hφ]
    rfl

/-! ### A bus transaction -/

/-- What a bus primitive can do: its transaction completes, with its event; or fails, and the block is faulted; or
hangs (20_memory.md R85, 60_exceptions.md R313, R315). -/
theorem busPrim_cases (tx : List Byte) (n : Nat) (f : List Byte → Locals) (s : State) :
    (∃ rx t, busPrim tx n f s = .done (f rx) t ∧ SameBlock s t ∧ t.trace = s.trace ++ [Event.txn tx n rx]) ∨
      (∃ t, busPrim tx n f s = .raise .bus t ∧ t = { s with faulted := true, answers := t.answers }) ∨
      ∃ t, busPrim tx n f s = .hung t ∧ t = { s with answers := t.answers } := by
  cases hx : txn tx n s with
  | completed rx t =>
    obtain ⟨hb, ht, -⟩ := txn_completed hx
    exact .inl ⟨rx, t, by simp [busPrim, hx], hb, ht⟩
  | failed t =>
    refine .inr (.inl ⟨{ t with faulted := true }, by simp [busPrim, hx, raiseBusError], ?_⟩)
    rw [txn_failed hx]
  | hung t => exact .inr (.inr ⟨t, by simp [busPrim, hx], txn_hung hx⟩)

/-! ### A code returned -/

theorem returnCode_eq (ag : Agent) (op : Op) (c : Status) (s : State) :
    returnCode ag op c s = { s with trace := (returnCode ag op c s).trace } := by
  unfold returnCode
  split
  · split <;> rfl
  · rfl

theorem finishRaise_host (a : Nat) (i : Instr) (c : Status) (s : State) :
    finishRaise (.host a) (.instr i) c s = (s.setLock .free).respond a c [] := rfl

theorem finishRaise_irq (op : Op) (c : Status) (s : State) : finishRaise .irq op c s = s.setLock .free := rfl

/-- A code is returned whatever the sequencers say. -/
theorem returnCode_setSeq (ag ag' : Agent) (op : Op) (c : Status) (s : State) (o : Option Busy) :
    returnCode ag op c (s.setSeq ag' o) = (returnCode ag op c s).setSeq ag' o := by
  unfold returnCode
  cases ag with
  | irq => rfl
  | host n =>
    cases op with
    | drain => rfl
    | instr i => cases ag' <;> rfl

theorem finishRaise_setSeq (ag ag' : Agent) (op : Op) (c : Status) (s : State) (o : Option Busy) :
    finishRaise ag op c (s.setSeq ag' o) = (finishRaise ag op c s).setSeq ag' o := by
  have hl : (s.setSeq ag' o).setLock .free = (s.setLock .free).setSeq ag' o := by cases ag' <;> rfl
  rw [finishRaise, hl, returnCode_setSeq, finishRaise]

/-! ### The frame -/

/-- What primitives among `ps` of `ag`'s operation can change of the block: each field is written by the primitives that
name it, and a fault stays (10_state.md R30, 60_exceptions.md R314). -/
structure ProgramFrame (ag : Agent) (ps : List Prim) (s t : State) : Prop where
  irqLevel : t.irqLevel = s.irqLevel
  params : t.params = s.params
  agenda : t.agenda = s.agenda
  requester : t.requester = s.requester
  wireRx : t.wireRx = s.wireRx
  faulted : s.faulted = true → t.faulted = true
  seqOf : ∀ ag', ag' ≠ ag → t.seqOf ag' = s.seqOf ag'
  irqPending : .takeEdge ∉ ps → t.irqPending = s.irqPending
  droppedCount : .route ∉ ps → t.droppedCount = s.droppedCount
  packetSize : (∀ n, .setPacketSize n ∉ ps) → t.packetSize = s.packetSize
  edgeArmed : .arm ∉ ps → t.edgeArmed = s.edgeArmed
  consumerRegistered : .registerConsumer ∉ ps → t.consumerRegistered = s.consumerRegistered
  fsm : (∀ f, .setFsm f ∉ ps) → t.fsm = s.fsm
  ce : (∀ b, .setCe b ∉ ps) → .ceAfterSend ∉ ps → t.ce = s.ce

namespace ProgramFrame

variable {ag : Agent} {ps qs : List Prim} {s t u : State}

theorem of_eq
    (h : t =
      { s with
        lock := t.lock
        faulted := s.faulted || t.faulted
        chip := t.chip
        trace := t.trace
        answers := t.answers
        free := t.free }) : ProgramFrame ag ps s t := by
  rw [h]
  exact ⟨rfl, rfl, rfl, rfl, rfl, fun hf => by simp [hf], fun _ _ => State.seqOf_congr rfl rfl _, fun _ => rfl,
    fun _ => rfl, fun _ => rfl, fun _ => rfl, fun _ => rfl, fun _ => rfl, fun _ _ => rfl⟩

theorem refl (s : State) : ProgramFrame ag ps s s := of_eq (by simp)

theorem trans (h : ProgramFrame ag ps s t) (h' : ProgramFrame ag ps t u) : ProgramFrame ag ps s u where
  irqLevel := h'.irqLevel.trans h.irqLevel
  params := h'.params.trans h.params
  agenda := h'.agenda.trans h.agenda
  requester := h'.requester.trans h.requester
  wireRx := h'.wireRx.trans h.wireRx
  faulted hf := h'.faulted (h.faulted hf)
  seqOf ag' hne := (h'.seqOf ag' hne).trans (h.seqOf ag' hne)
  irqPending hn := (h'.irqPending hn).trans (h.irqPending hn)
  droppedCount hn := (h'.droppedCount hn).trans (h.droppedCount hn)
  packetSize hn := (h'.packetSize hn).trans (h.packetSize hn)
  edgeArmed hn := (h'.edgeArmed hn).trans (h.edgeArmed hn)
  consumerRegistered hn := (h'.consumerRegistered hn).trans (h.consumerRegistered hn)
  fsm hn := (h'.fsm hn).trans (h.fsm hn)
  ce hn hn' := (h'.ce hn hn').trans (h.ce hn hn')

theorem mono (h : ProgramFrame ag ps s t) (hsub : ps ⊆ qs) : ProgramFrame ag qs s t where
  irqLevel := h.irqLevel
  params := h.params
  agenda := h.agenda
  requester := h.requester
  wireRx := h.wireRx
  faulted := h.faulted
  seqOf := h.seqOf
  irqPending hn := h.irqPending fun hm => hn (hsub hm)
  droppedCount hn := h.droppedCount fun hm => hn (hsub hm)
  packetSize hn := h.packetSize fun n hm => hn n (hsub hm)
  edgeArmed hn := h.edgeArmed fun hm => hn (hsub hm)
  consumerRegistered hn := h.consumerRegistered fun hm => hn (hsub hm)
  fsm hn := h.fsm fun f hm => hn f (hsub hm)
  ce hn hn' := h.ce (fun b hm => hn b (hsub hm)) fun hm => hn' (hsub hm)

theorem of_sameBlock (h : SameBlock s t) : ProgramFrame ag ps s t where
  irqLevel := h.irqLevel
  params := h.params
  agenda := h.agenda
  requester := h.requester
  wireRx := h.wireRx
  faulted hf := h.faulted.trans hf
  seqOf ag' _ := State.seqOf_congr h.hostSeq h.irqSeq ag'
  irqPending _ := h.irqPending
  droppedCount _ := h.droppedCount
  packetSize _ := h.packetSize
  edgeArmed _ := h.edgeArmed
  consumerRegistered _ := h.consumerRegistered
  fsm _ := h.fsm
  ce _ _ := h.ce

theorem of_setSeq (s : State) (o : Option Busy) : ProgramFrame ag ps s (s.setSeq ag o) := by
  constructor
  case seqOf => exact fun ag' hne => State.seqOf_setSeq_ne s o hne
  all_goals simp

theorem of_setLock (s : State) (l : Lock) : ProgramFrame ag ps s (s.setLock l) := of_eq (by simp [State.setLock])

theorem of_returnCode (op : Op) (c : Status) (s : State) : ProgramFrame ag ps s (returnCode ag op c s) := by
  rw [returnCode_eq]
  exact of_eq (by simp)

theorem of_finishRaise (op : Op) (c : Status) (s : State) : ProgramFrame ag ps s (finishRaise ag op c s) :=
  (of_setLock s .free).trans (of_returnCode op c _)

theorem of_busPrim {tx : List Byte} {n : Nat} {f : List Byte → Locals} (h : (busPrim tx n f s).state = some t) :
    ProgramFrame ag ps s t := by
  obtain ⟨rx, u, e, hb, -⟩ | ⟨u, e, hu⟩ | ⟨u, e, hu⟩ := busPrim_cases tx n f s <;> rw [e] at h <;> cases h
  · exact of_sameBlock hb
  · rw [hu]
    exact of_eq (by simp)
  · rw [hu]
    exact of_eq (by simp)

theorem of_execPrim {p : Prim} {l : Locals} (h : (execPrim ag p l s).state = some t) : ProgramFrame ag [p] s t := by
  cases p
  case memRead | writeField | writeAddr | clearRxReady | writeTx | readRx => exact of_busPrim h
  case acquire | checkFaulted | checkUninitialized | checkReceive | deliverOrDrop =>
    simp only [execPrim] at h
    split at h <;> cases h <;> exact of_eq (by simp [State.setLock, State.emit])
  case release => cases h; exact of_setLock s _
  case delay d => cases h; cases d <;> exact of_eq (by simp [State.doDelay, State.setChip, State.emit])
  case respond =>
    cases ag <;> cases h
    · exact of_eq (by simp [State.respond, State.emit])
    · exact refl s
  case takeEdge | setPacketSize | setCe | setFsm | arm | registerConsumer =>
    cases h
    constructor
    case seqOf => exact fun ag' _ => State.seqOf_congr rfl rfl ag'
    all_goals simp
  case ceAfterSend | route =>
    cases h
    split
    all_goals
      constructor
      case seqOf => exact fun ag' _ => State.seqOf_congr rfl rfl ag'
      all_goals simp

theorem of_completes {l l' : Locals} (h : Completes ag ps l s l' t) : ProgramFrame ag ps s t := by
  induction h with
  | nil => exact refl _
  | cons hp _ ih =>
    have hf := of_execPrim (PrimOut.state_of_completed hp)
    exact (hf.mono (by simp)).trans (ih.mono (by simp))

theorem of_run (op : Op) (k : Nat) (l : Locals) : ProgramFrame ag ps s (run ag op k ps l s) := by
  have of_past {u : State} {past rest : List Prim} {p : Prim} {l' : Locals} (hps : ps = past ++ p :: rest)
      (h : Completes ag past l s l' u) : ProgramFrame ag ps s u := (of_completes h).mono (by simp [hps])
  have of_last {past rest : List Prim} {p : Prim} {l' : Locals} {u v : State} (hps : ps = past ++ p :: rest)
      (hp : (execPrim ag p l' u).state = some v) : ProgramFrame ag ps u v := (of_execPrim hp).mono (by simp [hps])
  have hends := run_ends ag op k ps l s
  generalize run ag op k ps l s = t at hends ⊢
  cases hends with
  | goesOn h => exact of_completes h
  | raises hps h hp => exact (of_past hps h).trans ((of_last hps (by rw [hp]; rfl)).trans (of_finishRaise op _ _))
  | waits hps h hp => exact (of_past hps h).trans (of_setSeq _ _)
  | hangs hps h hp => exact (of_past hps h).trans ((of_last hps (by rw [hp]; rfl)).trans (of_setSeq _ _))

theorem of_advanceBusy (b : Busy) (s : State) : ProgramFrame ag (programOf b.op) s (advanceBusy ag b s) := by
  cases hc : b.course with
  | hung => simp only [advanceBusy, hc]; exact refl s
  | delivering => simp only [advanceBusy, hc]; exact of_setSeq s none
  | returning c => simp only [advanceBusy, hc]; exact (of_returnCode b.op c s).trans (of_setSeq _ none)
  | raised c =>
    simp only [advanceBusy, hc]
    split <;> exact (of_setLock s .free).trans (of_setSeq _ _)
  | main =>
    cases hp : (programOf b.op)[b.step]? with
    | none => simp only [advanceBusy, hc, hp]; exact of_setSeq s none
    | some p =>
      rcases advanceBusy_main (ag := ag) (s := s) hc hp with ⟨o, t, ht, e⟩ | e
      · rw [e]
        exact ((of_execPrim ht).mono (by simpa using List.mem_of_getElem? hp)).trans (of_setSeq t o)
      · rw [e]
        exact refl s

end ProgramFrame

end Sys2Proof.Machine
end

section
/-! PROOFS. Bus errors (60_exceptions.md R313 to R315): the one primitive that faults the block, and the run and the move
in which it does. -/

namespace Sys2Proof.Machine

open Sys2Proof Sys2Proof.Claims

/-! ### Transactions in a row -/

theorem SameBlock.refl (s : State) : SameBlock s s := .of_eq rfl

theorem SameBlock.trans {s t u : State} (h : SameBlock s t) (h' : SameBlock t u) : SameBlock s u :=
  ⟨h'.fsm.trans h.fsm, h'.packetSize.trans h.packetSize, h'.consumerRegistered.trans h.consumerRegistered,
    h'.lock.trans h.lock, h'.irqPending.trans h.irqPending, h'.irqLevel.trans h.irqLevel,
    h'.edgeArmed.trans h.edgeArmed, h'.ce.trans h.ce, h'.faulted.trans h.faulted,
    h'.droppedCount.trans h.droppedCount, h'.hostSeq.trans h.hostSeq, h'.irqSeq.trans h.irqSeq,
    h'.params.trans h.params, h'.agenda.trans h.agenda, h'.requester.trans h.requester, h'.wireRx.trans h.wireRx⟩

/-- The primitive is one bus transaction. -/
def Prim.IsTransaction (p : Prim) : Prop := ∀ ag l s, ∃ tx n f, execPrim ag p l s = busPrim tx n f s

theorem isTransaction_of_mem_rmw1 {reg : Reg} {f : FieldName} {v : Byte} {p : Prim} (h : p ∈ rmw1 reg f v) :
    p.IsTransaction := by
  rcases List.mem_pair.mp h with rfl | rfl <;> exact fun _ _ _ => ⟨_, _, _, rfl⟩

theorem Completes.sameBlock {ag : Agent} {ps : List Prim} {l l' : Locals} {s t : State}
    (h : Completes ag ps l s l' t) (hps : ∀ p ∈ ps, p.IsTransaction) : SameBlock s t := by
  induction h with
  | nil => exact .refl _
  | @cons p ps l l' l'' s t u hp _ ih =>
    refine SameBlock.trans ?_ (ih fun q hq => hps q (by simp [hq]))
    obtain ⟨tx, n, f, hx⟩ := hps p (by simp) ag l s
    rw [hx] at hp
    obtain ⟨rx, v, e, hb, -⟩ | ⟨v, e, -⟩ | ⟨v, e, -⟩ := busPrim_cases tx n f s <;> rw [e] at hp <;> cases hp
    exact hb

/-- Transactions in a row: all complete, or one fails and the block is faulted, or one hangs. Until then the block stays
as it is. -/
theorem run_transactions {ag : Agent} {op : Op} {k : Nat} {ps qs : List Prim} {l : Locals} {s : State}
    (hps : ∀ p ∈ ps, p.IsTransaction) :
    ∃ t, SameBlock s t ∧
      ((∃ j l', run ag op k (ps ++ qs) l s = run ag op j qs l' t) ∨
        run ag op k (ps ++ qs) l s = finishRaise ag op .bus { t with faulted := true } ∨
        ∃ j l', run ag op k (ps ++ qs) l s = t.setSeq ag (some ⟨op, j, l', .hung⟩)) := by
  have of_past {past rest : List Prim} {p : Prim} {l' : Locals} {u : State} (e : ps = past ++ p :: rest)
      (h : Completes ag past l s l' u) : SameBlock s u ∧ ∃ tx n f, execPrim ag p l' u = busPrim tx n f u :=
    ⟨h.sameBlock fun q hq => hps q (by simp [e, hq]), hps p (by simp [e]) ag l' u⟩
  have hends := run_append_ends ag op k ps qs l s
  generalize run ag op k (ps ++ qs) l s = v at hends ⊢
  cases hends with
  | goesOn h => exact ⟨_, h.sameBlock hps, .inl ⟨_, _, rfl⟩⟩
  | @raises _ _ _ _ u _ _ hpast h hp =>
    obtain ⟨hb, tx, n, f, hx⟩ := of_past hpast h
    obtain ⟨t, ht, rfl, rfl⟩ := busPrim_raise (hx.symm.trans hp)
    refine ⟨t, hb.trans (.of_eq ?_), .inr (.inl rfl)⟩
    rw [txn_failed ht]
  | @waits _ _ _ _ u hpast h hp =>
    obtain ⟨-, tx, n, f, hx⟩ := of_past hpast h
    rw [hx] at hp
    obtain ⟨rx, w, e, -⟩ | ⟨w, e, -⟩ | ⟨w, e, -⟩ := busPrim_cases tx n f u <;> rw [e] at hp <;> cases hp
  | @hangs _ _ _ _ u _ hpast h hp =>
    obtain ⟨hb, tx, n, f, hx⟩ := of_past hpast h
    rw [hx] at hp
    obtain ⟨rx, w, e, -⟩ | ⟨w, e, -⟩ | ⟨w, e, hw⟩ := busPrim_cases tx n f u <;> rw [e] at hp <;> cases hp
    refine ⟨_, hb.trans (.of_eq ?_), .inr (.inr ⟨_, _, rfl⟩)⟩
    rw [hw]

/-! ### The primitive that faults the block -/

/-- A primitive leaves the fault as it is, or it is a transaction that fails: it faults the block and raises E_BUS, and
but for the environment's answer that is all it does (60_exceptions.md R313). -/
theorem execPrim_faulted {ag : Agent} {p : Prim} {l : Locals} {s t : State}
    (h : (execPrim ag p l s).state = some t) :
    t.faulted = s.faulted ∨
      execPrim ag p l s = .raise .bus t ∧ t = { s with faulted := true, answers := t.answers } := by
  have of_bus {tx : List Byte} {n : Nat} {f : List Byte → Locals} (h : (busPrim tx n f s).state = some t) :
      t.faulted = s.faulted ∨
        busPrim tx n f s = .raise .bus t ∧ t = { s with faulted := true, answers := t.answers } := by
    obtain ⟨rx, u, e, hb, -⟩ | ⟨u, e, hu⟩ | ⟨u, e, hu⟩ := busPrim_cases tx n f s <;> rw [e] at h <;> cases h
    · exact .inl hb.faulted
    · exact .inr ⟨e, hu⟩
    · rw [hu]
      exact .inl rfl
  cases p
  case memRead | writeField | writeAddr | clearRxReady | writeTx | readRx => exact of_bus h
  case delay d => cases h; exact .inl (State.doDelay_faulted s d)
  case respond => cases ag <;> cases h <;> exact .inl rfl
  case ceAfterSend | route => cases h; left; split <;> rfl
  case acquire | checkFaulted | checkUninitialized | checkReceive | deliverOrDrop =>
    simp only [execPrim] at h
    split at h <;> cases h <;> exact .inl rfl
  all_goals cases h; exact .inl rfl

theorem Completes.faulted {ag : Agent} {ps : List Prim} {l l' : Locals} {s t : State}
    (h : Completes ag ps l s l' t) : t.faulted = s.faulted := by
  induction h with
  | nil => rfl
  | cons hp _ ih =>
    rcases execPrim_faulted (PrimOut.state_of_completed hp) with e | ⟨e, -⟩
    · exact ih.trans e
    · rw [e] at hp
      cases hp

theorem Completes.seqs {ag : Agent} {ps : List Prim} {l l' : Locals} {s t : State}
    (h : Completes ag ps l s l' t) : t.hostSeq = s.hostSeq ∧ t.irqSeq = s.irqSeq := by
  induction h with
  | nil => exact ⟨rfl, rfl⟩
  | cons hp _ ih =>
    have hf := execPrim_frame (PrimOut.state_of_completed hp)
    exact ⟨ih.1.trans hf.hostSeq, ih.2.trans hf.irqSeq⟩

/-! ### The events before it -/

/-- From `s` to `t` events are added to the trace, and `P` holds of each. -/
def Adds (P : Event → Prop) (s t : State) : Prop := ∃ es, t.trace = s.trace ++ es ∧ ∀ e ∈ es, P e

namespace Adds

variable {P Q : Event → Prop} {s t u : State}

theorem of_trace_eq (h : t.trace = s.trace) : Adds P s t := ⟨[], by simpa using h, nofun⟩

theorem of_append_singleton {e : Event} (h : t.trace = s.trace ++ [e]) (he : P e) : Adds P s t :=
  ⟨[e], h, by simpa using he⟩

theorem trans (h : Adds P s t) (h' : Adds P t u) : Adds P s u := by
  obtain ⟨es, ht, hes⟩ := h
  obtain ⟨fs, hu, hfs⟩ := h'
  exact ⟨es ++ fs, by rw [hu, ht, List.append_assoc], fun e he => (List.mem_append.mp he).elim (hes e) (hfs e)⟩

theorem mono (h : Adds P s t) (hPQ : ∀ e, P e → Q e) : Adds Q s t := by
  obtain ⟨es, ht, hes⟩ := h
  exact ⟨es, ht, fun e he => hPQ e (hes e he)⟩

end Adds

/-- A wire event, or a delay that is a primitive of `ps`. -/
def WireOrDelayOf (ps : List Prim) (e : Event) : Prop := e.isWire = true ∨ ∃ d, .delay d ∈ ps ∧ e = .delay d

theorem WireOrDelayOf.mono {ps qs : List Prim} (h : ps ⊆ qs) (e : Event) (he : WireOrDelayOf ps e) :
    WireOrDelayOf qs e :=
  he.imp_right fun ⟨d, hd, e⟩ => ⟨d, h hd, e⟩

/-- Until an operation has freed the exclusion it adds wire events and delays only (42_transmit_receive.md R236). -/
theorem execPrim_adds {ag : Agent} {p : Prim} {l : Locals} {s t : State} (hp : p.phase ≠ .after)
    (h : (execPrim ag p l s).state = some t) : Adds (WireOrDelayOf [p]) s t := by
  have of_bus {tx : List Byte} {n : Nat} {f : List Byte → Locals} (h : (busPrim tx n f s).state = some t) :
      Adds (WireOrDelayOf [p]) s t := by
    obtain ⟨rx, u, e, -, ht⟩ | ⟨u, e, hu⟩ | ⟨u, e, hu⟩ := busPrim_cases tx n f s <;> rw [e] at h <;> cases h
    · exact .of_append_singleton ht (.inl rfl)
    · exact .of_trace_eq (by rw [hu])
    · exact .of_trace_eq (by rw [hu])
  cases p
  case memRead | writeField | writeAddr | clearRxReady | writeTx | readRx => exact of_bus h
  case respond | deliverOrDrop => exact absurd rfl hp
  case delay d => cases h; exact .of_append_singleton (State.doDelay_trace s d) (.inr ⟨d, by simp, rfl⟩)
  case setCe b => cases h; exact .of_append_singleton (State.driveCe_trace s b) (.inl rfl)
  case ceAfterSend =>
    cases h
    split
    · exact .of_append_singleton (State.driveCe_trace s true) (.inl rfl)
    · exact .of_trace_eq rfl
  case route => cases h; split <;> exact .of_trace_eq rfl
  case acquire | checkFaulted | checkUninitialized | checkReceive =>
    simp only [execPrim] at h
    split at h <;> cases h <;> exact .of_trace_eq rfl
  all_goals cases h; exact .of_trace_eq rfl

theorem Completes.adds {ag : Agent} {ps : List Prim} {l l' : Locals} {s t : State}
    (h : Completes ag ps l s l' t) (hps : ∀ p ∈ ps, p.phase ≠ .after) : Adds (WireOrDelayOf ps) s t := by
  induction h with
  | nil => exact .of_trace_eq rfl
  | cons hp _ ih =>
    have hfirst := execPrim_adds (hps _ (by simp)) (PrimOut.state_of_completed hp)
    have hrest := ih fun q hq => hps q (by simp [hq])
    exact (hfirst.mono (WireOrDelayOf.mono (by simp))).trans (hrest.mono (WireOrDelayOf.mono (by simp)))

/-- No primitive leads out of the last phase. -/
theorem Phase.foldlM_next_after {ps : List Prim} {φ ψ : Phase} (h : ps.foldlM Phase.next φ = some ψ)
    (ha : φ = .after ∨ ∃ p ∈ ps, p.phase = .after) : ψ = .after := by
  induction ps generalizing φ with
  | nil =>
    cases h
    simpa using ha
  | cons p ps ih =>
    rw [List.foldlM_cons] at h
    obtain ⟨χ, hχ, h⟩ := Option.bind_eq_some_iff.mp h
    obtain ⟨rfl, rfl⟩ := Phase.next_eq_some.mp hχ
    have hnext (hp : p.phase = .after) : p.nextPhase = .after := by
      rw [Prim.nextPhase_of_ne (by rintro rfl; cases hp) (by rintro rfl; cases hp), hp]
    refine ih h ?_
    rcases ha with hp | ⟨q, hq, hqa⟩
    · exact .inl (hnext hp)
    · rcases List.mem_cons.mp hq with rfl | hq
      · exact .inl (hnext hqa)
      · exact .inr ⟨q, hq, hqa⟩

/-- An operation whose run faults the block has met one bus error: it returns E_BUS, and until then only wire events and
delays of its program were added (60_exceptions.md R313). -/
theorem run_programOf_faulted {ag : Agent} {op : Op} {l : Locals} {s : State} (hs : s.faulted = false)
    (h : (run ag op 0 (programOf op) l s).faulted = true) :
    ∃ t, run ag op 0 (programOf op) l s = finishRaise ag op .bus t ∧ t.hostSeq = s.hostSeq ∧
      t.irqSeq = s.irqSeq ∧ Adds (WireOrDelayOf (programOf op)) s t := by
  have hends := run_ends ag op 0 (programOf op) l s
  generalize run ag op 0 (programOf op) l s = v at hends h ⊢
  cases hends with
  | goesOn hc =>
    have hf : s.faulted = true := hc.faulted ▸ h
    simp [hs] at hf
  | waits hps hc hp => simp [hc.faulted, hs] at h
  | hangs hps hc hp =>
    rcases execPrim_faulted (by rw [hp]; rfl) with e | ⟨e, -⟩
    · simp [e, hc.faulted, hs] at h
    · rw [hp] at e
      cases e
  | @raises past rest p l' u t c hps hc hp =>
    have ht : t.faulted = true := by
      rw [finishRaise, returnCode_eq] at h
      exact h
    rcases execPrim_faulted (t := t) (by rw [hp]; rfl) with e | ⟨e, heq⟩
    · simp [e, hc.faulted, hs] at ht
    · have hc' : c = .bus := by
        rw [hp] at e
        cases e
        rfl
      have hinside := (execPrim_raise_or_hung (.inl ⟨c, hp⟩)).1
      have hpast : ∀ q ∈ past, q.phase ≠ .after := fun q hq hqa => by
        have := Phase.foldlM_next_after (Op.foldlM_past hps) (.inr ⟨q, hq, hqa⟩)
        rw [hinside] at this
        cases this
      have hadds := (hc.adds hpast).mono (Q := WireOrDelayOf (programOf op)) (WireOrDelayOf.mono (by simp [hps]))
      obtain ⟨hh, hi⟩ := hc.seqs
      refine ⟨t, by rw [hc'], ?_, ?_, hadds.trans (.of_trace_eq ?_)⟩
      · rw [heq]; exact hh
      · rw [heq]; exact hi
      · rw [heq]

/-- So has a move that faults it: the sequencer stands at the return of E_BUS, and nothing else has changed. -/
theorem advanceBusy_faulted {ag : Agent} {b : Busy} {s : State} (hs : s.faulted = false)
    (h : (advanceBusy ag b s).faulted = true) :
    ∃ t : State, advanceBusy ag b s = t.setSeq ag (some { b with course := .raised .bus }) ∧
      t = { s with faulted := true, answers := t.answers } := by
  cases hc : b.course with
  | hung => simp [advanceBusy, hc, hs] at h
  | delivering => simp [advanceBusy, hc, hs] at h
  | returning c =>
    simp only [advanceBusy, hc, State.setSeq_faulted] at h
    rw [returnCode_eq] at h
    simp [hs] at h
  | raised c =>
    simp only [advanceBusy, hc] at h
    split at h <;> simp [hs] at h
  | main =>
    cases hp : (programOf b.op)[b.step]? with
    | none => simp [advanceBusy, hc, hp, hs] at h
    | some p =>
      have hkeep : ∀ t, (execPrim ag p b.locals s).state = some t → t.faulted = true →
          execPrim ag p b.locals s = .raise .bus t ∧ t = { s with faulted := true, answers := t.answers } :=
        fun t ht hf => (execPrim_faulted ht).resolve_left fun e => by simp [e, hs] at hf
      rcases advanceBusy_main (ag := ag) (s := s) hc hp with ⟨o, t, ht, e⟩ | e
      · rw [e, State.setSeq_faulted] at h
        obtain ⟨he, heq⟩ := hkeep t ht h
        exact ⟨t, by simp [advanceBusy, hc, hp, he], heq⟩
      · simp [e, hs] at h

end Sys2Proof.Machine
end

section
/-! PROOFS. The moves by which an operation aborts, and the checks made again after `Acquire()` (60_exceptions.md R323,
41_device_config.md R190). -/

namespace Sys2Proof.Machine

open Sys2Proof Sys2Proof.Claims

/-! ### Moves -/

theorem moves_succ (ag : Agent) (k : Nat) (s : State) : moves ag (k + 1) s = moves ag k (advance ag s) := rfl

section

variable {ag : Agent} {b : Busy} {s : State}

theorem advance_of_busy (hb : s.seqOf ag = some b) : advance ag s = advanceBusy ag b s := by
  simp [advance, hb]

/-- A primitive that completes and is not the last one. -/
theorem advance_done {p : Prim} {l : Locals} {t : State} (hb : s.seqOf ag = some b) (hc : b.course = .main)
    (hp : (programOf b.op)[b.step]? = some p) (he : execPrim ag p b.locals s = .done l t)
    (hk : b.step + 1 < (programOf b.op).length) :
    advance ag s = t.setSeq ag (some ⟨b.op, b.step + 1, l, .main⟩) := by
  simp [advance_of_busy hb, advanceBusy, hc, hp, he, hk]

theorem advance_raise {p : Prim} {c : Status} {t : State} (hb : s.seqOf ag = some b) (hc : b.course = .main)
    (hp : (programOf b.op)[b.step]? = some p) (he : execPrim ag p b.locals s = .raise c t) :
    advance ag s = t.setSeq ag (some { b with course := .raised c }) := by
  simp [advance_of_busy hb, advanceBusy, hc, hp, he]

/-- After a raise an operation without a caller frees the exclusion and is Idle. -/
theorem advance_raised_drain {c : Status} (hb : s.seqOf ag = some b) (hc : b.course = .raised c)
    (ho : b.op = .drain) : advance ag s = (s.setLock .free).setSeq ag none := by
  simp [advance_of_busy hb, advanceBusy, hc, ho, Op.responds]

/-- A host operation frees it, then returns the code. -/
theorem moves_raised_instr {c : Status} {i : Instr} (hb : s.seqOf ag = some b) (hc : b.course = .raised c)
    (ho : b.op = .instr i) : moves ag 2 s = (finishRaise ag (.instr i) c s).setSeq ag none := by
  have h1 : advance ag s = (s.setLock .free).setSeq ag (some { b with course := .returning c }) := by
    simp [advance_of_busy hb, advanceBusy, hc, ho, Op.responds]
  have h2 := advance_of_busy (State.seqOf_setSeq_self (s.setLock .free) ag (some { b with course := .returning c }))
  rw [moves_succ, moves_succ, h1, h2]
  simp only [advanceBusy, ho, returnCode_setSeq, State.setSeq_setSeq]
  rfl

end

/-! ### The checks after `Acquire()` -/

theorem finishRaise_setLock {a : Nat} {i : Instr} {c : Status} {s : State} (hl : s.lock = .free) (l : Lock) :
    finishRaise (.host a) (.instr i) c (s.setLock l) = s.respond a c [] := by
  simp [finishRaise_host, State.setLock, State.respond, State.emit, ← hl]

/-- An operation past `Acquire()` whose next check raises ends in two more moves: the exclusion is freed and the code
returned, and that is its whole effect. -/
theorem moves_check_raise {a : Nat} {i : Instr} {k : Nat} {p : Prim} {c : Status} {s t : State} (hl : s.lock = .free)
    (ht : t = (s.setLock (.held (.host a))).setSeq (.host a) (some ⟨.instr i, k, ⟨[], false⟩, .main⟩))
    (hp : (instrProgram i)[k]? = some p) (he : execPrim (.host a) p ⟨[], false⟩ t = .raise c t) :
    moves (.host a) 3 t = (s.respond a c []).setSeq (.host a) none := by
  have hb : t.seqOf (.host a) = some ⟨.instr i, k, ⟨[], false⟩, .main⟩ := by rw [ht, State.seqOf_setSeq_self]
  rw [moves_succ, advance_raise hb rfl hp he, moves_raised_instr (State.seqOf_setSeq_self _ _ _) rfl rfl,
    finishRaise_setSeq, State.setSeq_setSeq, ht, finishRaise_setSeq, State.setSeq_setSeq, finishRaise_setLock hl]

theorem length_shell (body : List Prim) (ret : Ret) : (shell body ret).length = body.length + 4 := by
  simp [shell]

/-- An operation that waited at `Acquire()` takes the free exclusion. -/
theorem advance_acquire {a : Nat} {i : Instr} {s : State} (hi : i.isOperation = true)
    (hb : s.seqOf (.host a) = some ⟨.instr i, 0, ⟨[], false⟩, .main⟩) (hl : s.lock = .free) :
    advance (.host a) s =
      (s.setLock (.held (.host a))).setSeq (.host a) (some ⟨.instr i, 1, ⟨[], false⟩, .main⟩) := by
  obtain ⟨body, ret, hp⟩ := instrProgram_eq_shell hi
  have hlen : 1 < (instrProgram i).length := by
    rw [hp, length_shell]
    omega
  exact advance_done hb rfl (p := .acquire) (by simp [programOf, hp, shell]) (by simp [execPrim, hl]) hlen

/-- The fault is checked again after it. -/
theorem moves_faulted_after_acquire {a : Nat} {i : Instr} {s : State} (hi : i.isOperation = true)
    (hb : s.seqOf (.host a) = some ⟨.instr i, 0, ⟨[], false⟩, .main⟩) (hl : s.lock = .free)
    (hf : s.faulted = true) :
    moves (.host a) 4 s = (s.respond a .faulted []).setSeq (.host a) none := by
  obtain ⟨body, ret, hp⟩ := instrProgram_eq_shell hi
  rw [moves_succ, advance_acquire hi hb hl]
  exact moves_check_raise (p := .checkFaulted) hl rfl (by simp [hp, shell]) (by simp [execPrim, hf])

/-- And the mode, by an INIT. -/
theorem moves_initialized_after_acquire {a : Nat} {i : Instr} {s : State} (hi : isInit i = true)
    (hb : s.seqOf (.host a) = some ⟨.instr i, 0, ⟨[], false⟩, .main⟩) (hl : s.lock = .free)
    (hf : s.faulted = false) (hm : s.fsm ≠ .uninitialized) :
    moves (.host a) 5 s = (s.respond a .alreadyInitialized []).setSeq (.host a) none := by
  cases i with
  | init p args =>
    have hlen : 2 < (instrProgram (.init p args)).length := by
      rw [instrProgram, length_shell]
      omega
    have hcheck (l : Lock) (o : Option Busy) :
        execPrim (.host a) .checkFaulted ⟨[], false⟩ ((s.setLock l).setSeq (.host a) o) =
          .done ⟨[], false⟩ ((s.setLock l).setSeq (.host a) o) := by
      simp [execPrim, hf]
    rw [moves_succ, advance_acquire rfl hb hl, moves_succ,
      advance_done (State.seqOf_setSeq_self _ _ _) rfl (p := .checkFaulted) rfl (hcheck _ _) hlen,
      State.setSeq_setSeq]
    exact moves_check_raise (p := .checkUninitialized) hl rfl rfl (by simp [execPrim, hm])
  | _ => cases hi

/-- Settles O8: validation finds the first error of R323 in every decoded frame, and after `Acquire()` the two state
checks are made again. -/
theorem firstErrorIsReported : Obligations.FirstErrorIsReported := by
  refine ⟨fun a bytes s e ha hs hd => ?_, fun bytes i s c hd => refusesErrors_of_decodes hd s c,
    fun i a s hi hb hl => ⟨fun hf => ?_, fun hinit hf hm => ?_⟩⟩
  · exact runRequest_of_error ((State.takesFrom_iff s a).mpr ⟨ha, hs⟩) hd
  · exact moves_faulted_after_acquire hi hb hl hf
  · exact moves_initialized_after_acquire hinit hb hl hf hm

end Sys2Proof.Machine
end

section
/-! PROOFS. Handler entry: what the IRQ agent does with a pending edge (60_exceptions.md R319, R325), and the RX drain
with the reference chip (42_transmit_receive.md R235). -/

namespace Sys2Proof.Machine

open Sys2Proof Sys2Proof.Claims

/-- Settles O40: the two branches of the sampler. -/
theorem fallingEdgesAreLatched : Obligations.FallingEdgesAreLatched :=
  fun _ _ => ⟨fun hhigh hlow harmed => if_pos ⟨hhigh, hlow, harmed⟩, fun hno => if_neg hno⟩

/-! ### Handler entry -/

theorem takeInterrupt_of_rest {s : State} (h : s.irqPending = 0 ∨ s.irqSeq ≠ none) : takeInterrupt s = s :=
  if_neg fun ⟨hi, hp⟩ => h.elim (fun e => absurd e hp.ne') fun hne => hne hi

theorem takeInterrupt_of_pending {s : State} (hi : s.irqSeq = none) (hp : 0 < s.irqPending) :
    takeInterrupt s = run .irq .drain 0 (programOf .drain) Locals.start s := if_pos ⟨hi, hp⟩

/-- The IRQ agent does nothing, or it is Idle with an edge pending. -/
theorem takeInterrupt_eq_self_or_pending (s : State) :
    takeInterrupt s = s ∨ s.irqSeq = none ∧ 0 < s.irqPending :=
  (em _).symm.imp_left fun h => if_neg h

/-- The handler after its edge is taken. -/
theorem takeInterrupt_of_pending_acquire {s : State} (hi : s.irqSeq = none) (hp : 0 < s.irqPending) :
    takeInterrupt s =
      run .irq .drain 1 (.acquire :: .checkReceive :: (bodyDrain ++ [Prim.release, .deliverOrDrop])) ⟨[], false⟩
        { s with irqPending := s.irqPending - 1 } := takeInterrupt_of_pending hi hp

theorem takeInterrupt_discards {s : State} (hi : s.irqSeq = none) (hp : 0 < s.irqPending) (hl : s.lock = .free)
    (hd : s.faulted = true ∨ s.fsm ≠ .configuredRx) :
    takeInterrupt s = { s with irqPending := s.irqPending - 1 } := by
  rw [takeInterrupt_of_pending_acquire hi hp, run_acquire_free (by exact hl), run_checkReceive_raise (by exact hd)]
  simp [finishRaise_irq, State.setLock, ← hl]

theorem takeInterrupt_waits {s : State} {ag : Agent} (hi : s.irqSeq = none) (hp : 0 < s.irqPending)
    (hl : s.lock = .held ag) :
    takeInterrupt s =
      { s with irqPending := s.irqPending - 1, irqSeq := some ⟨.drain, 1, ⟨[], false⟩, .main⟩ } := by
  rw [takeInterrupt_of_pending_acquire hi hp, run_acquire_held (by exact hl)]
  rfl

/-- Settles O42: the handler's first three primitives, by what each finds. -/
theorem handlerDiscardsWaitsOrRests : Obligations.HandlerDiscardsWaitsOrRests :=
  fun _ => ⟨takeInterrupt_discards, fun _ => takeInterrupt_waits, takeInterrupt_of_rest⟩

/-! ### The RX drain -/

theorem bodyDrain_append (ps : List Prim) :
    bodyDrain ++ ps = Prim.setCe false :: .readRx :: .clearRxReady :: .setCe true :: .route :: ps := rfl

/-- The reference chip's read of its RX FIFO: the head's bytes, and the chip as the statements name it (20_memory.md
R111). -/
theorem Chip.popRx_eq (c : Chip) (y : Layout) : c.popRx y = (headData c, afterPop c y) := by
  obtain ⟨regs, rx, tx, held⟩ := c
  match rx with
  | [] => rfl
  | [e] => rfl
  | e :: e' :: rest => rfl

/-- The state after the reference chip has answered a read of `n` bytes of RX payload with `pkt`. -/
def State.popped (s : State) (y : Layout) (n : Nat) (pkt : List Byte) : State :=
  { s with
    chip := afterPop s.chip y
    free := s.free + (n - (headData s.chip).length)
    trace := s.trace ++ [Event.txn [y.opcRRxPayload] n pkt] }

/-- A read of the RX payload the reference chip answers (R111). -/
theorem txn_readRx {s : State} (h : s.onReference) (n : Nat) :
    txn (encodeCmd s.layout.opcRRxPayload 0 []) n s =
      .completed (fitRx n (headData s.chip) s.free) (s.popped s.layout n (fitRx n (headData s.chip) s.free)) := by
  obtain ⟨ha, hy⟩ := h
  rw [txn, busOutcome_reference ha, referenceTxn, chipAnswer, decodeWire_readRx hy, encodeCmd_zero]
  simp only [Chip.popRx_eq]
  rfl

section

variable {ag : Agent} {op : Op} {k : Nat} {ps : List Prim} {l : Locals} {s : State} {y : Layout} {pkt : List Byte}

/-- With the reference chip answering, the payload read goes on to the next primitive. -/
theorem run_readRx_reference (h : s.onReference ∧ s.layout = y)
    (hpkt : fitRx s.packetSize (headData s.chip) s.free = pkt) :
    run ag op k (.readRx :: ps) l s =
      run ag op (k + 1) ps { l with bytes := pkt } (s.popped y s.packetSize pkt) := by
  obtain ⟨h, rfl⟩ := h
  subst hpkt
  rw [run_readRx, txn_readRx h, afterTxn_completed]

/-- The state after the reference chip has taken the direct write of the RX-ready bit to STATUS. -/
def State.cleared (s : State) (y : Layout) : State :=
  (s.setChip (s.chip.writeReg y y.regStatus [bitMask y.rxReadyBit])).emit
    (writeEvent y y.regStatus [bitMask y.rxReadyBit])

/-- With the reference chip answering, that write goes on to the next primitive. -/
theorem run_clearRxReady_reference (h : s.onReference ∧ s.layout = y) :
    run ag op k (.clearRxReady :: ps) l s = run ag op (k + 1) ps l (s.cleared y) := by
  obtain ⟨h, rfl⟩ := h
  have hw := txn_write h .status (v := [(s.layout.field .rxReady).mask]) (show 1 ≤ 32 by decide)
  rw [run_clearRxReady, hw, afterTxn_completed]
  rfl

end

/-- Settles O41: the two transactions of the drain answered by the reference chip, then the hand-off outside the
exclusion. -/
theorem handlerDrainsOnePacket : Obligations.HandlerDrainsOnePacket := by
  refine ⟨⟨rfl, rfl⟩, fun s hi hp ⟨hl, hf⟩ hm href => ?_⟩
  refine ⟨freeBytes s.free (s.packetSize - (headData s.chip).length), length_freeBytes _ _, ?_⟩
  rw [takeInterrupt_of_pending_acquire hi hp, run_acquire_free (by exact hl),
    run_checkReceive (by exact hf) (by exact hm), bodyDrain_append, run_setCe]
  refine Eq.trans (run_readRx_reference (y := s.layout) ⟨href, rfl⟩ rfl) ?_
  refine Eq.trans (run_clearRxReady_reference (y := s.layout) ⟨href, rfl⟩) ?_
  rw [run_setCe, run_route, run_release, run_deliverOrDrop, run_nil]
  cases s.consumerRegistered <;>
    simp [State.popped, State.cleared, State.setLock, State.setChip, State.driveCe, State.emit, fitRx, ← hl]

end Sys2Proof.Machine
end

section
/-! PROOFS. Bus errors and hangs of whole operations: INIT in every environment, the fault that stays, the return of
E_BUS, and the exclusion a hung transaction holds for ever (60_exceptions.md R313 to R315). -/

namespace Sys2Proof.Machine

open Sys2Proof Sys2Proof.Claims

/-! ### INIT in every environment -/

/-- INIT's five read-modify-writes (41_device_config.md R192). -/
def initTransactions (ch pw r : Byte) : List Prim :=
  rmw1 .rfSetup .outputPower pw ++ rmw1 .rfSetup .dataRate r ++ rmw1 .rfCh .channel ch ++
    rmw1 .config .workingMode 1 ++ rmw1 .config .powerMode 1

theorem isTransaction_of_mem_initTransactions {ch pw r : Byte} {p : Prim} (h : p ∈ initTransactions ch pw r) :
    p.IsTransaction := by
  simp only [initTransactions, List.mem_append] at h
  rcases h with (((h | h) | h) | h) | h <;> exact isTransaction_of_mem_rmw1 h

theorem bodyInit_append_transactions (n ch pw r : Byte) (ps : List Prim) :
    bodyInit 0 [n, ch, pw, r] ++ ps = Prim.checkUninitialized :: .setPacketSize n.toNat ::
      (initTransactions ch pw r ++ (.delay .initSettle :: .setCe true :: .arm :: .setFsm .configuredRx :: ps)) := rfl

/-- Settles O13: INIT's ten transactions leave the block but for its packet size as it was; then one has failed, one
hangs, or the other block fields are written. -/
theorem initInEveryEnvironment : Obligations.InitInEveryEnvironment := by
  intro n ch pw r s hs hu hn hch hpw hr
  have hexec := exec_host (i := .init 0 [n, ch, pw, r]) rfl s
  rw [init_check hs hu hn hch hpw hr] at hexec
  obtain ⟨hl, hf⟩ := hs
  refine ⟨_, hexec, ?_⟩
  dsimp only
  rw [instrProgram, run_shell hl hf, bodyInit_append_transactions,
    run_checkUninitialized (by exact hu), run_setPacketSize]
  obtain ⟨t, hb, ⟨j, l, e⟩ | e | ⟨j, l, e⟩⟩ := run_transactions fun p => isTransaction_of_mem_initTransactions
  · rw [e, run_delay, run_setCe, run_arm, run_setFsm, run_release, run_respond_nothing, run_nil]
    exact ⟨by simp [hb.packetSize], .inl ⟨rfl, rfl, rfl, by simp [hb.faulted, hf], rfl, by simp⟩⟩
  · rw [e, finishRaise_host]
    exact ⟨hb.packetSize, .inr (.inl ⟨hb.fsm.trans hu, hb.ce, hb.edgeArmed, rfl, rfl, by simp⟩)⟩
  · rw [e]
    exact ⟨hb.packetSize, .inr (.inr ⟨hb.fsm.trans hu, hb.ce, hb.edgeArmed, hb.faulted.trans hf, hb.lock⟩)⟩

/-! ### The fault stays -/

theorem step_faulted {s t : State} (hf : s.faulted = true) (h : step s = .next t) : t.faulted = true := by
  cases step_cases h with
  | outside hu => exact hu.faulted.trans hf
  | request hu => exact (ProgramFrame.of_run _ _ _).faulted (hu.faulted.trans hf)
  | issue hu => exact (State.setSeq_faulted _ _ _).trans (hu.faulted.trans hf)
  | handler hu => exact (ProgramFrame.of_run _ _ _).faulted (hu.faulted.trans hf)
  | move hu => exact (ProgramFrame.of_advanceBusy _ _).faulted (hu.faulted.trans hf)
  | enter hu => exact (ProgramFrame.of_advanceBusy _ _).faulted (hu.faulted.trans hf)

/-- In a faulted block every operation with a legal frame is refused with E_FAULTED (60_exceptions.md R323 step 2). -/
theorem onlyAnswers_faulted {i : Instr} {s : State} (hi : i.isOperation = true)
    (hw : i.wellFormed s.layout = true) (hf : s.faulted = true) : OnlyAnswers i s .faulted := by
  obtain ⟨op, p, a, -, rfl, ha⟩ := encode_host (isHost_of_isOperation hi) hw
  refine refusesErrors_of_decodes (decodeHost_encodeHost op p ha) s .faulted ?_
  rw [expectedError, if_neg (by simp [hi, hw]), if_pos hf]

/-- The handler of a faulted block adds no event and leaves the chip alone. -/
theorem takeInterrupt_of_faulted {s : State} (hf : s.faulted = true) :
    (takeInterrupt s).trace = s.trace ∧ (takeInterrupt s).chip = s.chip ∧ (takeInterrupt s).ce = s.ce := by
  rcases takeInterrupt_eq_self_or_pending s with e | ⟨hi, hp⟩
  · rw [e]
    exact ⟨rfl, rfl, rfl⟩
  · cases hl : s.lock with
    | free =>
      rw [takeInterrupt_discards hi hp hl (.inl hf)]
      exact ⟨rfl, rfl, rfl⟩
    | held ag =>
      rw [takeInterrupt_waits hi hp hl]
      exact ⟨rfl, rfl, rfl⟩

/-- Up to its mode check the handler adds no event and leaves the chip alone. -/
theorem advanceBusy_handler_entry (s : State) {k : Nat} (hk : k ≤ 2) (l : Locals) :
    (advanceBusy .irq ⟨.drain, k, l, .main⟩ s).trace = s.trace ∧
      (advanceBusy .irq ⟨.drain, k, l, .main⟩ s).chip = s.chip ∧
      (advanceBusy .irq ⟨.drain, k, l, .main⟩ s).ce = s.ce := by
  have hentry : ∃ p, (programOf .drain)[k]? = some p ∧ (p = .takeEdge ∨ p = .acquire ∨ p = .checkReceive) := by
    match k, hk with
    | 0, _ => exact ⟨_, rfl, .inl rfl⟩
    | 1, _ => exact ⟨_, rfl, .inr (.inl rfl)⟩
    | 2, _ => exact ⟨_, rfl, .inr (.inr rfl)⟩
  obtain ⟨p, hp, hcases⟩ := hentry
  rcases advanceBusy_main (ag := .irq) (b := ⟨.drain, k, l, .main⟩) (s := s) rfl hp with ⟨o, t, ht, e⟩ | e
  · rw [e, State.setSeq_trace, State.setSeq_chip, State.setSeq_ce]
    rcases hcases with rfl | rfl | rfl
    · cases ht
      exact ⟨rfl, rfl, rfl⟩
    all_goals
      simp only [execPrim] at ht
      split at ht <;> cases ht <;> exact ⟨rfl, rfl, rfl⟩
  · rw [e]
    exact ⟨rfl, rfl, rfl⟩

/-- Settles O10: no primitive takes a fault back, validation and the mode check at handler entry find it. -/
theorem faultIsForEver : Obligations.FaultIsForEver := by
  refine ⟨fun s t h hf => step_faulted hf h, fun i s hi hw hf => onlyAnswers_faulted hi hw hf,
    fun s hf => takeInterrupt_of_faulted hf, fun s _ hseq => ?_⟩
  rcases hseq with hi | ⟨k, l, hk, hb⟩
  · have e : advance .irq s =
        if 0 < s.irqPending then advanceBusy .irq ⟨.drain, 0, Locals.start, .main⟩ s else s := by
      simp [advance, State.seqOf, hi]
    rw [e]
    split
    · exact advanceBusy_handler_entry s (Nat.zero_le 2) Locals.start
    · exact ⟨rfl, rfl, rfl⟩
  · rw [advance_of_busy (ag := .irq) hb]
    exact advanceBusy_handler_entry s hk l

/-! ### The return of a bus error -/

/-- A host instruction answers what validation raised, or passed it and runs its program. -/
theorem exec_cases {i : Instr} {s t : State} (hi : i.isHost = true) (h : exec i s = .next t) :
    (∃ c, t = s.respond s.requester c []) ∨
      checkOf i s = none ∧ t = run (.host s.requester) (.instr i) 0 (programOf (.instr i)) Locals.start s := by
  rw [exec_host hi] at h
  cases hc : checkOf i s with
  | some c =>
    rw [hc] at h
    cases h
    exact .inl ⟨c, rfl⟩
  | none =>
    rw [hc] at h
    cases h
    exact .inr ⟨rfl, rfl⟩

/-- A host operation of a block that is not faulted that ends with it faulted (R313). -/
theorem exec_faulted {i : Instr} {s t : State} (hi : i.isOperation = true) (hs : s.faulted = false)
    (h : exec i s = .next t) (hf : t.faulted = true) :
    t.lock = .free ∧ t.hostSeq = s.hostSeq ∧ ∃ es, t.trace = s.trace ++ es ++ [Event.resp s.requester .bus []] ∧
      ∀ e ∈ es, e.isWire = true ∨ ∃ d, e = .delay d := by
  rcases exec_cases (isHost_of_isOperation hi) h with ⟨c, rfl⟩ | ⟨-, rfl⟩
  · exact absurd (hs.symm.trans hf) Bool.false_ne_true
  · obtain ⟨u, e, hh, -, es, hu, hes⟩ := run_programOf_faulted hs hf
    rw [e, finishRaise_host]
    refine ⟨rfl, hh, es, ?_, fun e he => (hes e he).imp_right fun ⟨d, _, hd⟩ => ⟨d, hd⟩⟩
    rw [State.respond_trace, State.setLock_trace, hu]

/-- So does a drain; it has no response and no delay (42_transmit_receive.md R235). -/
theorem takeInterrupt_faulted {s : State} (hs : s.faulted = false) (hf : (takeInterrupt s).faulted = true) :
    (takeInterrupt s).lock = .free ∧ (takeInterrupt s).irqSeq = none ∧ (takeInterrupt s).hostSeq = s.hostSeq ∧
      ∃ es, (takeInterrupt s).trace = s.trace ++ es ∧ ∀ e ∈ es, e.isWire = true := by
  rcases takeInterrupt_eq_self_or_pending s with e | ⟨hi, hp⟩
  · rw [e, hs] at hf
    cases hf
  · rw [takeInterrupt_of_pending hi hp] at hf ⊢
    obtain ⟨u, e, hh, hq, es, hu, hes⟩ := run_programOf_faulted hs hf
    have hnone (d : DelayName) : .delay d ∉ programOf .drain := by
      simp [programOf, handlerProgram, bodyDrain]
    rw [e, finishRaise_irq]
    exact ⟨rfl, hq.trans hi, hh, es, hu, fun e he => (hes e he).resolve_right fun ⟨d, hd, _⟩ => hnone d hd⟩

/-- The move of a busy agent that faults the block. -/
theorem advance_faulted {s : State} {ag : Agent} {b : Busy} (hb : s.seqOf ag = some b) (hs : s.faulted = false)
    (hf : (advance ag s).faulted = true) :
    (advance ag s).trace = s.trace ∧ (advance ag s).lock = s.lock ∧
      (advance ag s).seqOf ag = some { b with course := .raised .bus } := by
  rw [advance_of_busy hb] at hf ⊢
  obtain ⟨t, e, ht⟩ := advanceBusy_faulted hs hf
  rw [e, State.setSeq_trace, State.setSeq_lock, State.seqOf_setSeq_self, ht]
  exact ⟨rfl, rfl, rfl⟩

/-- Settles O47: one primitive faults the block, and both the run and the moves after it free the exclusion and return
its code. -/
theorem busErrorIsReturnedOnce : Obligations.BusErrorIsReturnedOnce := by
  refine ⟨fun i s t hi hs h hf => exec_faulted hi hs.2 h hf, fun s hs hf => takeInterrupt_faulted hs.2 hf,
    fun s ag b hb hs hf => ?_⟩
  obtain ⟨htrace, hlock, hseq⟩ := advance_faulted hb hs hf
  refine ⟨⟨htrace, hlock, hseq⟩, ?_, ?_⟩
  · rintro n i rfl hop
    rw [moves_succ, moves_raised_instr hseq rfl hop]
    refine ⟨State.setSeq_lock _ _ _, State.seqOf_setSeq_self _ _ _, ?_⟩
    rw [State.setSeq_trace, ← htrace]
    rfl
  · rintro rfl hop
    rw [moves_succ, moves_succ, advance_raised_drain hseq rfl hop]
    exact ⟨rfl, rfl, htrace⟩

/-! ### A hung transaction -/

theorem advanceBusy_hung {ag : Agent} {b : Busy} {s : State} (hc : b.course = .hung) : advanceBusy ag b s = s := by
  simp [advanceBusy, hc]

/-- An operation that finds the exclusion free and ends with it held hangs (R315). -/
theorem hangs_of_run_lock {ag ag' : Agent} {op : Op} {l : Locals} {s t : State} (hs : s.lock = .free)
    (ht : run ag op 0 (programOf op) l s = t) (hl : t.lock = .held ag') :
    ag' = ag ∧ (∃ b, t.seqOf ag' = some b ∧ b.course = .hung) ∧ advance ag' t = t := by
  rcases run_programOf_lock hs ht with e | ⟨e, b, hb, hc⟩
  · rw [e] at hl
    cases hl
  · rw [e] at hl
    cases hl
    exact ⟨rfl, ⟨b, hb, hc⟩, by rw [advance_of_busy hb, advanceBusy_hung hc]⟩

theorem exec_hangs_of_lock {i : Instr} {s t : State} {ag : Agent} (hs : s.lock = .free) (h : exec i s = .next t)
    (hl : t.lock = .held ag) :
    ag = .host s.requester ∧ (∃ b, t.seqOf ag = some b ∧ b.course = .hung) ∧ advance ag t = t := by
  cases hi : i.isHost with
  | false =>
    obtain ⟨u, hu, e⟩ := exec_wire hi s
    rw [hu] at h
    cases h
    rw [e, hs] at hl
    cases hl
  | true =>
    rcases exec_cases hi h with ⟨c, rfl⟩ | ⟨-, rfl⟩
    · exact nomatch hs.symm.trans hl
    · exact hangs_of_run_lock hs rfl hl

theorem takeInterrupt_hangs_of_lock {s : State} {ag : Agent} (hs : s.lock = .free)
    (hl : (takeInterrupt s).lock = .held ag) :
    ag = .irq ∧ (∃ b, (takeInterrupt s).seqOf ag = some b ∧ b.course = .hung) ∧
      advance ag (takeInterrupt s) = takeInterrupt s := by
  rcases takeInterrupt_eq_self_or_pending s with e | ⟨hi, hp⟩
  · rw [e, hs] at hl
    cases hl
  · exact hangs_of_run_lock hs (takeInterrupt_of_pending hi hp).symm hl

theorem advance_atAcquire {s : State} {ag holder : Agent} {b : Busy} (hl : s.lock = .held holder)
    (hb : s.seqOf ag = some b) (ha : atAcquire b) : advance ag s = s := by
  obtain ⟨hc, hp⟩ := ha
  simp [advance_of_busy hb, advanceBusy, hc, hp, execPrim, hl]

/-- No step moves an agent that stands at a hung transaction. -/
theorem step_seqOf_hung {s t : State} {ag : Agent} {b : Busy} (hb : s.seqOf ag = some b) (hc : b.course = .hung)
    (h : step s = .next t) : t.seqOf ag = some b := by
  have busy {u : State} (hu : SameOperations s u) : u.seqOf ag = some b := (hu.seqOf ag).trans hb
  have ne_of_idle {u : State} {ag' : Agent} (hu : SameOperations s u) (hi : u.seqOf ag' = none) : ag ≠ ag' := by
    rintro rfl
    exact nomatch (busy hu).symm.trans hi
  cases step_cases h with
  | outside hu => exact busy hu
  | request hu ha =>
    have hne := ne_of_idle hu ((State.takesFrom_iff _ _).mp ha).2
    exact ((ProgramFrame.of_run _ _ _).seqOf ag hne).trans (busy hu)
  | issue hu ha =>
    have hne := ne_of_idle hu ((State.takesFrom_iff _ _).mp ha).2
    exact (State.seqOf_setSeq_ne _ _ hne).trans (busy hu)
  | handler hu hi => exact ((ProgramFrame.of_run _ _ _).seqOf ag (ne_of_idle (ag' := .irq) hu hi)).trans (busy hu)
  | enter hu hi =>
    exact ((ProgramFrame.of_advanceBusy _ _).seqOf ag (ne_of_idle (ag' := .irq) hu hi)).trans (busy hu)
  | @move u ag' b' hu hb' =>
    by_cases e : ag = ag'
    · subst e
      obtain rfl : b = b' := Option.some.inj ((busy hu).symm.trans hb')
      rw [advanceBusy_hung hc]
      exact busy hu
    · exact ((ProgramFrame.of_advanceBusy _ _).seqOf ag e).trans (busy hu)

theorem core_run_succ_next {k : Nat} {s t : State} (h : Sys2Proof.core.run (k + 1) s = Host.Outcome.next t) :
    ∃ u, step s = .next u ∧ Sys2Proof.core.run k u = Host.Outcome.next t := by
  simp only [Host.Core.run] at h
  split at h
  · exact ⟨_, ‹_›, h⟩
  · cases h
  · cases h

/-- Any number of steps leaves such an agent where it is, holding the exclusion. -/
theorem core_run_hung {k : Nat} {s t : State} {ag : Agent} {b : Busy} (hs : s.exclusive) (hb : s.seqOf ag = some b)
    (hc : b.course = .hung) (h : Sys2Proof.core.run k s = Host.Outcome.next t) :
    t.lock = .held ag ∧ t.seqOf ag = some b := by
  induction k generalizing s with
  | zero =>
    cases h
    exact ⟨(hs ag).mpr ⟨b, hb, by simp [Busy.holds, hc]⟩, hb⟩
  | succ k ih =>
    obtain ⟨u, hu, h⟩ := core_run_succ_next h
    exact ih (stepKeepsMutualExclusion s u hs hu) (step_seqOf_hung hb hc hu) h

/-- Settles O48: a run that ends inside its exclusive part hangs there, and no step moves the agent again. -/
theorem hungTransactionHoldsForEver : Obligations.HungTransactionHoldsForEver := by
  refine ⟨fun i s t ag hs h hl => exec_hangs_of_lock hs.1 h hl, fun s ag hs hl => ?_,
    fun s ag holder b hl hb ha => advance_atAcquire hl hb ha, fun s ag b hs hb hc k t h => core_run_hung hs hb hc h⟩
  obtain ⟨rfl, hb, he⟩ := takeInterrupt_hangs_of_lock hs.1 hl
  exact ⟨rfl, hb, he⟩

end Sys2Proof.Machine
end

section
/-! PROOFS. What a host operation changes of the block (10_state.md R30). -/

namespace Sys2Proof.Machine

open Sys2Proof Sys2Proof.Claims

/-! ### What the programs are made of -/

/-- The primitives of the handler alone: they write the latch and the drop count. -/
def Prim.isHandlers : Prim → Bool
  | .takeEdge | .route => true
  | _ => false

/-- The primitives of INIT alone: they write the packet size and arm the edge. -/
def Prim.isInits : Prim → Bool
  | .setPacketSize _ | .arm => true
  | _ => false

/-- The primitives of INIT and SEND: they write the mode and chip-enable. -/
def Prim.setsMode : Prim → Bool
  | .setFsm _ | .setCe _ | .ceAfterSend => true
  | _ => false

theorem not_mem_of_all {f : Prim → Bool} {ps : List Prim} (h : (ps.all fun p => !f p) = true) {p : Prim}
    (hp : f p = true) : p ∉ ps := fun hm => by
  simpa [hp] using List.all_eq_true.mp h p hm

theorem instrProgram_no_isHandlers (i : Instr) : ((instrProgram i).all fun p => !p.isHandlers) = true := by
  cases i <;> rfl

theorem instrProgram_no_isInits {i : Instr} (h : isInit i = false) :
    ((instrProgram i).all fun p => !p.isInits) = true := by
  cases i
  case init => cases h
  all_goals rfl

theorem instrProgram_no_registerConsumer {i : Instr} (h : ∀ p a, i ≠ .registerConsumer p a) :
    ((instrProgram i).all fun p => !decide (p = .registerConsumer)) = true := by
  cases i
  case registerConsumer p a => exact absurd rfl (h p a)
  all_goals rfl

theorem instrProgram_no_setsMode {i : Instr} (h : isInit i = false) (hs : ∀ p a, i ≠ .send p a) :
    ((instrProgram i).all fun p => !p.setsMode) = true := by
  cases i
  case init => cases h
  case send p a => exact absurd rfl (hs p a)
  all_goals rfl

/-- An operation leaves what its program's primitives leave (10_state.md R30). -/
theorem exec_frame {i : Instr} {s t : State} (hi : i.isHost = true) (h : exec i s = .next t) :
    ProgramFrame (.host s.requester) (instrProgram i) s t := by
  rcases exec_cases hi h with ⟨c, rfl⟩ | ⟨-, rfl⟩
  · exact .of_returnCode (.instr i) c s
  · exact .of_run _ _ _

/-- Settles O49: the frame of a program, and which primitives the programs are made of. -/
theorem operationsChangeOnlyTheirFields : Obligations.OperationsChangeOnlyTheirFields := by
  intro i s t hi h
  have hf := exec_frame (isHost_of_isOperation hi) h
  have hhandler := instrProgram_no_isHandlers i
  refine ⟨hf.irqPending (not_mem_of_all hhandler rfl), hf.irqLevel, hf.droppedCount (not_mem_of_all hhandler rfl),
    hf.seqOf .irq nofun, hf.params, hf.agenda, hf.requester, hf.wireRx, fun n hn => hf.seqOf _ (by simpa using hn),
    fun hinit => ?_, fun hreg => ?_, fun hinit hsend => ?_⟩
  · have hno := instrProgram_no_isInits hinit
    exact ⟨hf.packetSize fun _ => not_mem_of_all hno rfl, hf.edgeArmed (not_mem_of_all hno rfl)⟩
  · exact hf.consumerRegistered (not_mem_of_all (instrProgram_no_registerConsumer hreg) rfl)
  · have hno := instrProgram_no_setsMode hinit hsend
    exact ⟨hf.fsm fun _ => not_mem_of_all hno rfl,
      hf.ce (fun _ => not_mem_of_all hno rfl) (not_mem_of_all hno rfl)⟩

end Sys2Proof.Machine
end

section
/-! PROOFS. Reset: the block as it is constructed (70_reset_and_hazards.md R360). -/

namespace Sys2Proof.Machine

open Sys2Proof

/-- Construction leaves every agent Idle (10_state.md R41): no host agent has a sequencer, nor has the IRQ agent. -/
@[simp] theorem State.construct_seqOf (p : Params) (c : Chip) (level : Bool) (ag : Agent) :
    (State.construct p c level).seqOf ag = none := by
  cases ag with
  | host n => rfl
  | irq => rfl

/-- Settles O1: the fields are those `State.construct` writes, and every agent is Idle. -/
theorem constructionSetsTheResetValues : Obligations.ConstructionSetsTheResetValues := by
  intro p c level
  exact ⟨rfl, rfl, rfl, rfl, rfl, rfl, rfl, rfl, State.construct_seqOf p c level, rfl, rfl, rfl⟩

end Sys2Proof.Machine
end

section
/-! PROOFS. A step, exactly: what the outside world does, or an operation that is set up, runs or moves; and a run is the
moves it is made of (10_state.md R41). -/

namespace Sys2Proof.Machine

open Sys2Proof Sys2Proof.Claims

/-! ### What a step can do, with its effect on the chip and the trace -/

/-- The state a transaction leaves, whatever becomes of it. -/
def TxnOut.state : TxnOut → State
  | .completed _ s => s
  | .failed s => s
  | .hung s => s

/-- What the outside world can do with input `i` when no operation is set up, runs or moves. -/
inductive Outside (i : Input) (s : State) : State → Prop
  | nothing : Outside i s s
  | answers (r a : Nat) (c : Status) : Outside i s (({ s with requester := r } : State).respond a c [])
  | wire (tx : List Byte) (n : Nat) (rx : List Byte) : Outside i s { (busOutcome tx n s).state with wireRx := rx }
  | samples (level : Bool) : Outside i s (sampleIrq level s)
  | receives (p : BitVec 3) (d : List Byte) : Outside i s (receive p d s)
  | holds : Outside i s (holdPasses s)
  | transmits (sent : Bool) : Outside i s (transmit sent s)
  | changes {c : Chip} (hi : i = .chipChange c) : Outside i s (s.setChip c)

/-- A transaction changes the chip, the pending answers and the count of free values, whatever becomes of it. -/
theorem busOutcome_state_eq (tx : List Byte) (n : Nat) (s : State) :
    (busOutcome tx n s).state =
      { s with
        chip := (busOutcome tx n s).state.chip
        answers := (busOutcome tx n s).state.answers
        free := (busOutcome tx n s).state.free } := by
  cases h : busOutcome tx n s with
  | completed rx t => exact (busOutcome_completed h).1
  | failed t => exact (busOutcome_failed h).trans (by rw [busOutcome_failed h]; rfl)
  | hung t => exact (busOutcome_hung h).trans (by rw [busOutcome_hung h]; rfl)

/-- No operation is moved. -/
theorem Outside.sameOperations {i : Input} {s t : State} (h : Outside i s t) : SameOperations s t := by
  cases h with
  | nothing => exact .of_eq rfl
  | answers => exact .of_eq rfl
  | wire tx n rx => rw [busOutcome_state_eq]; exact .of_eq rfl
  | samples level => exact sampleIrq_sameOperations level s
  | receives p d => exact receive_sameOperations p d s
  | holds => exact .of_eq rfl
  | transmits sent => exact transmit_sameOperations sent s
  | changes => exact .of_eq rfl

/-- A refusal is all that is recorded. -/
theorem Outside.trace {i : Input} {s t : State} (h : Outside i s t) :
    t.trace = s.trace ∨ ∃ a c, t.trace = s.trace ++ [Event.resp a c []] := by
  cases h with
  | answers r a c => exact .inr ⟨a, c, rfl⟩
  | wire tx n rx => rw [busOutcome_state_eq]; exact .inl rfl
  | samples level => unfold sampleIrq; split <;> exact .inl rfl
  | receives p d => unfold receive; split <;> exact .inl rfl
  | transmits sent => unfold transmit; split <;> exact .inl rfl
  | nothing | holds | changes => exact .inl rfl

/-- The state right after host agent `a` has been given an operation: on its course, or about to return the code that
validation raised. -/
def State.begun (s : State) (a : Nat) (i : Instr) (c : Course) : State :=
  s.setSeq (.host a) (some ⟨.instr i, 0, Locals.start, c⟩)

/-- A host agent may be given instruction `i` with course `c`: its frame is taken, and validation passed it or raised a
code (60_exceptions.md R323). -/
structure State.Accepts (s : State) (a : Nat) (i : Instr) (c : Course) : Prop where
  takes : s.takesFrom a = true
  course : c = .main ∧ checkOf i s = none ∨ ∃ e, c = .returning e

/-- What input `i` does in `s`, the input taken. -/
inductive StepForm (i : Input) (s : State) : State → Prop
  | outside {t : State} (h : Outside i s t) : StepForm i s t
  | setUp {a : Nat} {j : Instr} {c : Course} (h : s.Accepts a j c) : StepForm i s (s.begun a j c)
  | request {a : Nat} {j : Instr} (h : s.Accepts a j .main) :
      StepForm i s (run (.host a) (.instr j) 0 (instrProgram j) Locals.start { s with requester := a })
  | handler : StepForm i s (takeInterrupt s)
  | advances (ag : Agent) : StepForm i s (advance ag s)

/-- Validation reads neither the agenda nor who asks. -/
theorem checkOf_congr (j : Instr) (s : State) (rest : List Input) (r : Nat) :
    checkOf j { s with agenda := rest, requester := r } = checkOf j s := by
  cases j <;> rfl

theorem wireOp_form {i : Input} {tx : List Byte} {n : Nat} {s t : State} (h : wireOp tx n s = .next t) :
    StepForm i s t := by
  have hw (rx : List Byte) : StepForm i s { (busOutcome tx n s).state with wireRx := rx } := .outside (.wire tx n rx)
  unfold wireOp at h
  cases hb : busOutcome tx n s with
  | completed rx u | failed u | hung u =>
    rw [hb] at h hw
    cases h
    exact hw _

theorem runWire_form {i : Input} {frame : List Byte} {s t : State} (h : runWire frame s = .next t) :
    StepForm i s t := by
  unfold runWire at h
  split at h
  · next j hj =>
    have hi := decodeWire_isHost hj
    cases j
    case rRegister | wRegister | rRxPayload | wTxPayload => exact wireOp_form h
    all_goals cases hi
  · cases h

theorem runRequest_form {i : Input} {a : Nat} {frame : List Byte} {s t : State}
    (h : runRequest a frame s = .next t) : StepForm i s t := by
  cases ha : s.takesFrom a with
  | false =>
    rw [runRequest_of_not_taken ha] at h
    cases h
    exact .outside .nothing
  | true =>
    cases hd : decodeHost frame with
    | error e =>
      rw [runRequest_of_error ha hd] at h
      cases h
      exact .outside (.answers s.requester a .illegalOp)
    | ok j =>
      rw [runRequest_of_decodes ha hd] at h
      rcases exec_cases (decodeHost_isHost hd) h with ⟨c, rfl⟩ | ⟨hc, rfl⟩
      · exact .outside (.answers a a c)
      · exact .request ⟨ha, .inl ⟨rfl, (checkOf_congr j s s.agenda a).symm.trans hc⟩⟩

theorem runIssue_form (i : Input) (a : Nat) (frame : List Byte) (s : State) : StepForm i s (runIssue a frame s) := by
  cases ha : s.takesFrom a with
  | false =>
    rw [runIssue_of_not_taken ha]
    exact .outside .nothing
  | true =>
    rw [runIssue_of_takes ha]
    unfold issue
    split
    · exact .outside (.answers s.requester a .illegalOp)
    · split
      · exact .setUp ⟨ha, .inr ⟨_, rfl⟩⟩
      · exact .setUp ⟨ha, .inl ⟨rfl, ‹_›⟩⟩

/-- A step takes an input, if there is one, and does what it says. -/
theorem step_form {s t : State} (h : step s = .next t) :
    t = s ∨ ∃ i rest, s.agenda = i :: rest ∧ StepForm i { s with agenda := rest } t := by
  unfold step at h
  split at h
  · cases h
    exact .inl rfl
  · next i rest ha =>
    refine .inr ⟨i, rest, ha, ?_⟩
    cases i with
    | request a frame => exact runRequest_form h
    | wire frame => exact runWire_form h
    | issue a frame => cases h; exact runIssue_form _ a frame _
    | advance ag => cases h; exact .advances ag
    | handler => cases h; exact .handler
    | sample | sampleLine => cases h; exact .outside (.samples _)
    | reception p d => cases h; exact .outside (.receives p d)
    | holdPasses => cases h; exact .outside .holds
    | transmission sent => cases h; exact .outside (.transmits sent)
    | chipChange c => cases h; exact .outside (.changes rfl)

/-! ### A primitive does not look at the sequencers -/

/-- The outcome of a transaction with another state in place of the one it leaves. -/
def TxnOut.map (f : State → State) : TxnOut → TxnOut
  | .completed rx s => .completed rx (f s)
  | .failed s => .failed (f s)
  | .hung s => .hung (f s)

/-- The outcome of a primitive with another state in place of the one it leaves. -/
def PrimOut.map (f : State → State) : PrimOut → PrimOut
  | .done l s => .done l (f s)
  | .raise c s => .raise c (f s)
  | .wait => .wait
  | .hung s => .hung (f s)
  | .handedOver l s => .handedOver l (f s)

section

variable (ag' : Agent) (o : Option Busy) (s : State)

theorem chipAnswer_setSeq (tx : List Byte) :
    chipAnswer tx (s.setSeq ag' o) = ((chipAnswer tx s).1, (chipAnswer tx s).2.setSeq ag' o) := by
  have hl : (s.setSeq ag' o).layout = s.layout := congrArg Params.layout (State.setSeq_params s ag' o)
  unfold chipAnswer
  rw [hl]
  cases decodeWire s.layout tx with
  | error e => rfl
  | ok j =>
    cases j
    case wTxPayload d =>
      rw [State.setSeq_chip]
      dsimp only
      split <;> cases ag' <;> rfl
    case rRegister | wRegister | rRxPayload => cases ag' <;> rfl
    all_goals rfl

theorem referenceTxn_setSeq (tx : List Byte) (n : Nat) :
    referenceTxn tx n (s.setSeq ag' o) = (referenceTxn tx n s).map (·.setSeq ag' o) := by
  rw [referenceTxn, chipAnswer_setSeq]
  cases ag' <;> rfl

theorem busOutcome_setSeq (tx : List Byte) (n : Nat) :
    busOutcome tx n (s.setSeq ag' o) = (busOutcome tx n s).map (·.setSeq ag' o) := by
  have hset (rest : List Answer) : ({ s.setSeq ag' o with answers := rest } : State) =
      ({ s with answers := rest } : State).setSeq ag' o := by cases ag' <;> rfl
  unfold busOutcome
  rw [State.setSeq_answers]
  cases ha : s.answers with
  | nil => exact referenceTxn_setSeq ag' o s tx n
  | cons a rest =>
    cases a with
    | reference =>
      dsimp only
      rw [hset]
      exact referenceTxn_setSeq ag' o _ tx n
    | other rx c => cases ag' <;> rfl
    | fail | hang => cases ag' <;> rfl

theorem busPrim_setSeq (tx : List Byte) (n : Nat) (f : List Byte → Locals) :
    busPrim tx n f (s.setSeq ag' o) = (busPrim tx n f s).map (·.setSeq ag' o) := by
  unfold busPrim txn
  rw [busOutcome_setSeq]
  cases busOutcome tx n s <;> cases ag' <;> rfl

theorem execPrim_setSeq (ag : Agent) (p : Prim) (l : Locals) :
    execPrim ag p l (s.setSeq ag' o) = (execPrim ag p l s).map (·.setSeq ag' o) := by
  have hl : (s.setSeq ag' o).layout = s.layout := congrArg Params.layout (State.setSeq_params s ag' o)
  cases p
  case memRead | writeField | writeAddr | clearRxReady | writeTx | readRx =>
    simp only [execPrim, State.readFrame, State.writeFrame, hl, State.setSeq_packetSize]
    exact busPrim_setSeq ag' o s _ _ _
  case acquire =>
    simp only [execPrim, State.setSeq_lock]
    split <;> cases ag' <;> rfl
  case checkFaulted =>
    simp only [execPrim, State.setSeq_faulted]
    split <;> rfl
  case checkUninitialized =>
    simp only [execPrim, State.setSeq_fsm]
    split <;> rfl
  case checkReceive =>
    simp only [execPrim, State.setSeq_fsm, State.setSeq_faulted]
    split <;> rfl
  case ceAfterSend =>
    simp only [execPrim, State.setSeq_params]
    split <;> cases ag' <;> rfl
  case route =>
    simp only [execPrim, State.setSeq_consumerRegistered]
    split <;> cases ag' <;> rfl
  case deliverOrDrop =>
    simp only [execPrim]
    split <;> cases ag' <;> rfl
  case delay d => cases d <;> cases ag' <;> rfl
  case respond => cases ag <;> cases ag' <;> rfl
  all_goals cases ag' <;> rfl

end

/-! ### A run is the moves it is made of -/

theorem instrProgram_no_deliverOrDrop (i : Instr) :
    ((instrProgram i).all fun p => !decide (p = .deliverOrDrop)) = true := by
  cases i <;> rfl

/-- The hand-off of a packet is the last primitive of the handler, and of no other program. -/
theorem drop_succ_of_deliverOrDrop {op : Op} {k : Nat} (h : (programOf op)[k]? = some .deliverOrDrop) :
    (programOf op).drop (k + 1) = [] := by
  have hlast : ∀ k < 10, handlerProgram[k]? = some .deliverOrDrop → handlerProgram.drop (k + 1) = [] := by decide
  obtain ⟨hk, -⟩ := List.getElem?_eq_some_iff.mp h
  cases op with
  | drain => exact hlast k hk h
  | instr i => exact absurd (List.mem_of_getElem? h) (not_mem_of_all (instrProgram_no_deliverOrDrop i) (by decide))

/-- A raise ends in one or two more moves of its agent: the exclusion is freed and the code returned. -/
theorem moves_raised {ag : Agent} {op : Op} {k : Nat} {l : Locals} {c : Status} (t : State) :
    ∃ n, moves ag n (t.setSeq ag (some ⟨op, k, l, .raised c⟩)) = (finishRaise ag op c t).setSeq ag none := by
  have hb := State.seqOf_setSeq_self t ag (some ⟨op, k, l, .raised c⟩)
  cases op with
  | drain =>
    refine ⟨1, ?_⟩
    rw [moves_succ, advance_raised_drain hb rfl rfl]
    cases ag with
    | host n => exact State.setSeq_setSeq (t.setLock .free) (.host n) (some ⟨.drain, k, l, .raised c⟩) none
    | irq => rfl
  | instr i =>
    refine ⟨2, ?_⟩
    rw [moves_raised_instr hb rfl rfl, finishRaise_setSeq, State.setSeq_setSeq]

theorem exists_moves_of_advance {ag : Agent} {s t u : State} (h : advance ag s = t) (hu : ∃ n, moves ag n t = u) :
    ∃ n, moves ag n s = u := by
  obtain ⟨n, rfl⟩ := hu
  exact ⟨n + 1, by rw [moves_succ, h]⟩

/-- Running an Idle agent's operation from index `k` is moving it from there, set up in its sequencer. -/
theorem run_eq_moves {ag : Agent} {op : Op} {ps : List Prim} {k : Nat} {l : Locals} {s : State}
    (hps : (programOf op).drop k = ps) (hi : s.seqOf ag = none) :
    ∃ n, moves ag n (s.setSeq ag (some ⟨op, k, l, .main⟩)) = run ag op k ps l s := by
  have hb := State.seqOf_setSeq_self s ag (some ⟨op, k, l, .main⟩)
  induction ps generalizing k l s with
  | nil =>
    have hk : (programOf op)[k]? = none := List.getElem?_eq_none_iff.mpr (List.drop_eq_nil_iff.mp hps)
    refine ⟨1, ?_⟩
    simp [moves, advance_of_busy hb, advanceBusy, hk, State.setSeq_none_of_idle hi]
  | cons p ps ih =>
    have hp : (programOf op)[k]? = some p := by rw [← List.head?_drop, hps]; rfl
    have hps' : (programOf op).drop (k + 1) = ps := by rw [← List.tail_drop, hps]; rfl
    have hadv : advance ag (s.setSeq ag (some ⟨op, k, l, .main⟩)) =
        advanceBusy ag ⟨op, k, l, .main⟩ (s.setSeq ag (some ⟨op, k, l, .main⟩)) := advance_of_busy hb
    have hset := execPrim_setSeq ag (some ⟨op, k, l, .main⟩) s ag p l
    have idle {t : State} (he : (execPrim ag p l s).state = some t) : t.seqOf ag = none :=
      ((execPrim_frame he).seqOf ag).trans hi
    simp only [advanceBusy, hp, hset] at hadv
    cases he : execPrim ag p l s with
    | done l' t =>
      have ht : t.seqOf ag = none := idle (by rw [he]; rfl)
      simp only [he, PrimOut.map, State.setSeq_setSeq] at hadv
      rw [run_done he]
      refine exists_moves_of_advance hadv ?_
      split
      · exact ih hps' ht (State.seqOf_setSeq_self t ag _)
      · next hk =>
        obtain rfl : ps = [] := hps' ▸ List.drop_eq_nil_iff.mpr (Nat.not_lt.mp hk)
        exact ⟨0, State.setSeq_none_of_idle ht⟩
    | handedOver l' t =>
      have ht : t.seqOf ag = none := idle (by rw [he]; rfl)
      obtain ⟨rfl, -⟩ := execPrim_handedOver he
      obtain rfl : ps = [] := hps' ▸ drop_succ_of_deliverOrDrop hp
      simp only [he, PrimOut.map, State.setSeq_setSeq] at hadv
      rw [run, he]
      refine exists_moves_of_advance hadv ⟨1, ?_⟩
      have hb' := State.seqOf_setSeq_self t ag (some ⟨op, k, l', .delivering⟩)
      simp [moves, advance_of_busy hb', advanceBusy, State.setSeq_none_of_idle ht]
    | raise c t =>
      have ht : t.seqOf ag = none := idle (by rw [he]; rfl)
      simp only [he, PrimOut.map, State.setSeq_setSeq] at hadv
      obtain ⟨n, hn⟩ := moves_raised (ag := ag) (op := op) (k := k) (l := l) (c := c) t
      rw [run_raise he]
      refine exists_moves_of_advance hadv ⟨n, hn.trans ?_⟩
      rw [← finishRaise_setSeq, State.setSeq_none_of_idle ht]
    | wait =>
      rw [run_wait he]
      exact ⟨0, rfl⟩
    | hung t =>
      simp only [he, PrimOut.map, State.setSeq_setSeq] at hadv
      rw [run_hung he]
      exact exists_moves_of_advance hadv ⟨0, rfl⟩

/-- Running the handler is moving the IRQ agent. -/
theorem takeInterrupt_eq_moves {s : State} (hi : s.irqSeq = none) : ∃ n, moves .irq n s = takeInterrupt s := by
  by_cases hp : 0 < s.irqPending
  · have hadv : advance .irq s =
        ({ s with irqPending := s.irqPending - 1 } : State).setSeq .irq (some ⟨.drain, 1, Locals.start, .main⟩) := by
      simp [advance, State.seqOf, hi, hp]
      rfl
    rw [takeInterrupt_of_pending_acquire hi hp]
    exact exists_moves_of_advance hadv (run_eq_moves rfl hi)
  · exact ⟨0, (takeInterrupt_of_rest (.inl (Nat.eq_zero_of_not_pos hp))).symm⟩

/-- Settles O53: each primitive of a run is one move, and an abort and the consumer's return are moves of their own. -/
theorem runsAreSequencerMoves : Obligations.RunsAreSequencerMoves := by
  refine ⟨fun s bytes i hd hi => ?_, fun s hi => takeInterrupt_eq_moves hi⟩
  have hexec := exec_host (decodeHost_isHost hd) s
  suffices h : ∃ n, moves (.host s.requester) n (issue s.requester bytes s) = _ from
    h.imp fun n hn => ⟨_, hexec, hn⟩
  unfold issue
  simp only [hd]
  cases hc : checkOf i s with
  | none => exact run_eq_moves rfl hi
  | some c =>
    refine ⟨1, ?_⟩
    have hb := State.seqOf_setSeq_self s (.host s.requester) (some ⟨.instr i, 0, Locals.start, .returning c⟩)
    simp only [moves, advance_of_busy hb, advanceBusy, returnCode_setSeq, State.setSeq_setSeq]
    exact State.setSeq_none_of_idle ((returnCode_seqOf _ _ _ _ _).trans hi)

end Sys2Proof.Machine
end

section
/-! PROOFS. What every step keeps, by what it is made of: nothing is taken back (10_state.md R31, R38, R42), and the
chip stays canonical (20_memory.md R107). -/

namespace Sys2Proof.Machine

open Sys2Proof Sys2Proof.Claims

/-! ### From moves to steps -/

theorem moves_induction {Inv : State → Prop} {ag : Agent} (hadv : ∀ u, Inv u → Inv (advance ag u)) (n : Nat) {s : State}
    (hs : Inv s) : Inv (moves ag n s) := by
  induction n generalizing s with
  | zero => exact hs
  | succ n ih => exact ih (hadv s hs)

/-- What holds after whatever the outside world does and after an operation is set up, and what every move keeps, holds
after a step. -/
theorem step_induction {Inv : State → Prop} {s t : State} (h : step s = .next t) (hs : Inv s)
    (hout : ∀ i rest u, s.agenda = i :: rest → Outside i { s with agenda := rest } u → Inv u)
    (hbegin : ∀ i rest r a j c, s.agenda = i :: rest → s.Accepts a j c →
      Inv (State.begun { s with agenda := rest, requester := r } a j c))
    (hadv : ∀ ag u, Inv u → Inv (advance ag u)) : Inv t := by
  rcases step_form h with rfl | ⟨i, rest, ha, hform⟩
  · exact hs
  have htaken : Inv { s with agenda := rest } := hout i rest _ ha .nothing
  have accepts {a : Nat} {j : Instr} {c : Course} (hj : State.Accepts { s with agenda := rest } a j c) :
      s.Accepts a j c :=
    ⟨hj.takes, hj.course.imp_left fun ⟨hm, hc⟩ => ⟨hm, (checkOf_congr j s rest s.requester).symm.trans hc⟩⟩
  cases hform with
  | outside hu => exact hout i rest t ha hu
  | setUp hj => exact hbegin i rest s.requester _ _ _ ha (accepts hj)
  | @request a j hj =>
    have hi : State.seqOf { s with agenda := rest, requester := a } (.host a) = none :=
      ((State.takesFrom_iff _ _).mp hj.takes).2
    obtain ⟨n, hn⟩ := run_eq_moves (op := .instr j) (k := 0) (l := Locals.start) rfl hi
    exact hn ▸ moves_induction (hadv _) n (hbegin i rest a a j .main ha (accepts hj))
  | handler =>
    rcases takeInterrupt_eq_self_or_pending { s with agenda := rest } with e | ⟨hi, -⟩
    · rw [e]
      exact htaken
    · obtain ⟨n, hn⟩ := takeInterrupt_eq_moves hi
      exact hn ▸ moves_induction (hadv _) n htaken
  | advances ag => exact hadv ag _ htaken

/-- What a move of `ag` is: none, a primitive of a program, the return of a code or the freeing of the exclusion, and
the agent's sequencer set. -/
inductive MoveForm (ag : Agent) (s : State) : State → Prop
  | rests : MoveForm ag s s
  | performs {op : Op} {p : Prim} {l : Locals} {t : State} (o : Option Busy) (hp : p ∈ programOf op)
      (h : (execPrim ag p l s).state = some t) : MoveForm ag s (t.setSeq ag o)
  | returns (op : Op) (c : Status) (o : Option Busy) : MoveForm ag s ((returnCode ag op c s).setSeq ag o)
  | frees (o : Option Busy) : MoveForm ag s ((s.setLock .free).setSeq ag o)
  | ends (o : Option Busy) : MoveForm ag s (s.setSeq ag o)

theorem advanceBusy_form (ag : Agent) (b : Busy) (s : State) : MoveForm ag s (advanceBusy ag b s) := by
  cases hc : b.course with
  | hung => simp only [advanceBusy, hc]; exact .rests
  | delivering => simp only [advanceBusy, hc]; exact .ends none
  | returning c => simp only [advanceBusy, hc]; exact .returns b.op c none
  | raised c => simp only [advanceBusy, hc]; split <;> exact .frees _
  | main =>
    cases hp : (programOf b.op)[b.step]? with
    | none => simp only [advanceBusy, hc, hp]; exact .ends none
    | some p =>
      rcases advanceBusy_main (ag := ag) (s := s) hc hp with ⟨o, t, ht, e⟩ | e
      · rw [e]
        exact .performs o (List.mem_of_getElem? hp) ht
      · rw [e]
        exact .rests

theorem advance_form (ag : Agent) (s : State) : MoveForm ag s (advance ag s) := by
  unfold advance
  split
  · exact advanceBusy_form _ _ _
  · split
    · exact .rests
    · split
      · exact advanceBusy_form _ _ _
      · exact .rests

/-! ### Nothing is taken back -/

/-- From `s` to `t` nothing has been taken back that a step may do once. -/
structure Onward (s t : State) : Prop where
  params : t.params = s.params
  trace : ∃ es, t.trace = s.trace ++ es
  faulted : s.faulted = true → t.faulted = true
  edgeArmed : s.edgeArmed = true → t.edgeArmed = true
  consumerRegistered : s.consumerRegistered = true → t.consumerRegistered = true
  droppedCount : s.droppedCount ≤ t.droppedCount
  fsm : s.fsm ≠ .uninitialized → t.fsm ≠ .uninitialized

namespace Onward

variable {s t u : State}

/-- Only the trace has grown among the fields it speaks of. -/
theorem of_eq {es : List Event}
    (h : t =
      { s with
        lock := t.lock
        irqPending := t.irqPending
        irqLevel := t.irqLevel
        hostSeq := t.hostSeq
        irqSeq := t.irqSeq
        chip := t.chip
        trace := s.trace ++ es
        agenda := t.agenda
        answers := t.answers
        requester := t.requester
        wireRx := t.wireRx
        free := t.free }) : Onward s t := by
  rw [h]
  exact ⟨rfl, ⟨es, rfl⟩, id, id, id, le_rfl, id⟩

theorem refl (s : State) : Onward s s := of_eq (es := []) (by simp)

theorem trans (h : Onward s t) (h' : Onward t u) : Onward s u where
  params := h'.params.trans h.params
  trace := by
    obtain ⟨es, hes⟩ := h.trace
    obtain ⟨fs, hfs⟩ := h'.trace
    exact ⟨es ++ fs, by rw [hfs, hes, List.append_assoc]⟩
  faulted hs := h'.faulted (h.faulted hs)
  edgeArmed hs := h'.edgeArmed (h.edgeArmed hs)
  consumerRegistered hs := h'.consumerRegistered (h.consumerRegistered hs)
  droppedCount := h.droppedCount.trans h'.droppedCount
  fsm hs := h'.fsm (h.fsm hs)

theorem of_setSeq (ag : Agent) (o : Option Busy) (s : State) : Onward s (s.setSeq ag o) :=
  of_eq (es := []) (by cases ag <;> simp [State.setSeq])

theorem of_returnCode (ag : Agent) (op : Op) (c : Status) (s : State) : Onward s (returnCode ag op c s) := by
  unfold returnCode
  split
  · split
    · exact of_eq (es := [.resp _ c []]) rfl
    · exact refl s
  · exact refl s

theorem of_outside {i : Input} (h : Outside i s t) : Onward s t := by
  have hu := h.sameOperations
  refine ⟨hu.params, ?_, hu.faulted.trans, hu.edgeArmed.trans, hu.consumerRegistered.trans, hu.droppedCount.ge,
    fun hs => hu.fsm.symm ▸ hs⟩
  rcases h.trace with e | ⟨a, c, e⟩
  · exact ⟨[], by simpa using e⟩
  · exact ⟨_, e⟩

/-- No program leads back to Uninitialized (10_state.md R31). -/
theorem setFsm_uninitialized_not_mem (op : Op) : .setFsm .uninitialized ∉ programOf op := by
  have hall (i : Instr) : ((instrProgram i).all fun p => !decide (p = .setFsm .uninitialized)) = true := by
    cases i <;> rfl
  cases op with
  | drain => decide
  | instr i => exact not_mem_of_all (hall i) (by decide)

theorem of_execPrim {ag : Agent} {op : Op} {p : Prim} {l : Locals} (hp : p ∈ programOf op)
    (h : (execPrim ag p l s).state = some t) : Onward s t := by
  have hf := ProgramFrame.of_execPrim h
  obtain ⟨es, ht, -⟩ := execPrim_emitsOnly (P := fun _ _ => True) (fun _ _ _ => trivial) h
  refine ⟨hf.params, ⟨es, ht⟩, hf.faulted, ?_, ?_, ?_, ?_⟩
  · by_cases e : p = .arm
    · subst e; cases h; exact fun _ => rfl
    · exact fun hs => (hf.edgeArmed (by simpa [eq_comm] using e)).trans hs
  · by_cases e : p = .registerConsumer
    · subst e; cases h; exact fun _ => rfl
    · exact fun hs => (hf.consumerRegistered (by simpa [eq_comm] using e)).trans hs
  · by_cases e : p = .route
    · subst e; cases h; split <;> simp
    · exact (hf.droppedCount (by simpa [eq_comm] using e)).ge
  · by_cases e : ∃ f, p = .setFsm f
    · obtain ⟨f, rfl⟩ := e
      cases h
      rintro - rfl
      exact setFsm_uninitialized_not_mem op hp
    · have hno : ∀ f, .setFsm f ∉ [p] := fun f hm => e ⟨f, (List.mem_singleton.mp hm).symm⟩
      rw [hf.fsm hno]
      exact id

theorem of_advance (ag : Agent) (s : State) : Onward s (advance ag s) := by
  have hform := advance_form ag s
  generalize advance ag s = t at hform ⊢
  cases hform with
  | rests => exact refl s
  | performs o hp h => exact (of_execPrim hp h).trans (of_setSeq ag o _)
  | returns op c o => exact (of_returnCode ag op c s).trans (of_setSeq ag o _)
  | frees o => exact (of_eq (es := []) (by simp [State.setLock]) : Onward s (s.setLock .free)).trans (of_setSeq ag o _)
  | ends o => exact of_setSeq ag o s

end Onward

/-- Settles O50: whatever the outside world does and every move keeps what was done. -/
theorem stepsNeverTakeBack : Obligations.StepsNeverTakeBack := by
  intro s t h
  have hon : Onward s t := by
    refine step_induction h (.refl s) (fun i rest u _ hu => ?_) (fun i rest r a j c _ _ => ?_)
      fun ag u hu => hu.trans (.of_advance ag u)
    · exact Onward.trans (t := { s with agenda := rest }) (.of_eq (es := []) (by simp)) (.of_outside hu)
    · exact Onward.trans (t := { s with agenda := rest, requester := r }) (.of_eq (es := []) (by simp))
        (.of_setSeq _ _ _)
  exact ⟨hon.params, hon.trace, hon.faulted, hon.edgeArmed, hon.consumerRegistered, hon.droppedCount, hon.fsm⟩

/-! ### The chip -/

theorem Chip.wf_iff (c : Chip) :
    c.wf = true ↔ Memory.wf c.regs = true ∧ c.rxFifo.length ≤ 3 ∧ c.txFifo.length ≤ 3 ∧
      c.held ≤ c.txFifo.length := by
  simp [Chip.wf, and_assoc]

@[simp] theorem Chip.rxFifo_writeReg (c : Chip) (y : Layout) (r : BitVec 5) (v : List Byte) :
    (c.writeReg y r v).rxFifo = c.rxFifo := by
  unfold Chip.writeReg
  split
  · cases v <;> rfl
  · rfl

theorem Chip.wf_writeReg {c : Chip} (h : c.wf = true) (y : Layout) (r : BitVec 5) (v : List Byte) :
    (c.writeReg y r v).wf = true := by
  rw [Chip.wf_iff] at h ⊢
  obtain ⟨hregs, hrest⟩ := h
  exact ⟨Chip.wf_regs_writeReg y r v hregs, by simpa using hrest⟩

/-- Another STATUS byte and other FIFOs within their depth keep a chip canonical. -/
theorem Chip.wf_withStatus {c : Chip} (h : c.wf = true) {rx : List RxEntry} {tx : List (List Byte)} {held : Nat}
    (hrx : rx.length ≤ 3) (htx : tx.length ≤ 3) (hheld : held ≤ tx.length) (y : Layout) (v : Byte) :
    (Chip.withStatus { c with rxFifo := rx, txFifo := tx, held := held } y v).wf = true := by
  rw [Chip.wf_iff] at h ⊢
  exact ⟨Memory.wf_write _ v h.1, hrx, htx, hheld⟩

theorem Chip.wf_popRx {c : Chip} (h : c.wf = true) (y : Layout) : (c.popRx y).2.wf = true := by
  obtain ⟨-, hrx, htx, hheld⟩ := c.wf_iff.mp h
  unfold Chip.popRx
  cases hc : c.rxFifo with
  | nil => exact Chip.wf_withStatus h hrx htx hheld y _
  | cons e rest =>
    have hrest : rest.length ≤ 3 := by
      rw [hc, List.length_cons] at hrx
      omega
    exact Chip.wf_withStatus h hrest htx hheld y _

theorem Chip.wf_noteHold {c : Chip} (h : c.wf = true) (y : Layout) (ce : Bool) : (c.noteHold y ce).wf = true := by
  unfold Chip.noteHold
  split
  · rw [Chip.wf_iff] at h ⊢
    exact ⟨h.1, h.2.1, h.2.2.1, le_rfl⟩
  · exact h

/-- A payload write keeps the TX FIFO within its depth (20_memory.md R112, log entry 14). -/
theorem Chip.wf_queue {c : Chip} (h : c.wf = true) (free : Nat) (d : List Byte) :
    Chip.wf { c with txFifo := (c.queue free d).fifo, held := (c.queue free d).held } = true := by
  obtain ⟨hregs, hrx, htx, hheld⟩ := c.wf_iff.mp h
  rw [Chip.wf_iff]
  by_cases hroom : c.txFifo.length < 3
  · rw [Chip.queue_of_room hroom]
    simp only [List.length_append, List.length_singleton]
    exact ⟨hregs, hrx, by omega, by omega⟩
  · rw [Chip.queue_of_full (Nat.not_lt.mp hroom)]
    exact ⟨hregs, hrx, List.length_take_le _ _, Nat.min_le_right _ _⟩

namespace State.chipOk

variable {s t : State}

theorem congr (h : s.chipOk) (hc : t.chip = s.chip) (ha : t.answers = s.answers) (hg : t.agenda = s.agenda) :
    t.chipOk := by
  unfold State.chipOk
  rw [hc, ha, hg]
  exact h

theorem setChip (h : s.chipOk) {c : Chip} (hc : c.wf = true) : (s.setChip c).chipOk := ⟨hc, h.2⟩

theorem setSeq (h : s.chipOk) (ag : Agent) (o : Option Busy) : (s.setSeq ag o).chipOk :=
  h.congr (by simp) (by simp) (by simp)

theorem chipAnswer (h : s.chipOk) (tx : List Byte) : (chipAnswer tx s).2.chipOk := by
  unfold Machine.chipAnswer
  split
  · exact h
  · exact h.setChip (Chip.wf_writeReg h.1 _ _ _)
  · exact h.setChip (Chip.wf_popRx h.1 _)
  · next d _ =>
    have hq := Chip.wf_queue h.1 s.free d
    split
    · next hroom =>
      rw [Chip.queue_of_room hroom] at hq
      exact h.setChip hq
    · next hfull =>
      rw [Chip.queue_of_full (Nat.not_lt.mp hfull)] at hq
      exact ⟨hq, h.2⟩
  · exact h

/-- Whatever becomes of a transaction, in every environment (20_memory.md R85). -/
theorem busOutcome (h : s.chipOk) (tx : List Byte) (n : Nat) : (busOutcome tx n s).state.chipOk := by
  have reference {u : State} (hu : u.chipOk) : (referenceTxn tx n u).state.chipOk :=
    (hu.chipAnswer tx).congr rfl rfl rfl
  obtain ⟨hc, ha, hg⟩ := h
  unfold Machine.busOutcome
  cases hs : s.answers with
  | nil => exact reference ⟨hc, ha, hg⟩
  | cons a rest =>
    have hwf : a.wf = true := ha a (by simp [hs])
    have hrest : ∀ b ∈ rest, b.wf = true := fun b hb => ha b (by simp [hs, hb])
    cases a with
    | reference => exact reference (u := { s with answers := rest }) ⟨hc, hrest, hg⟩
    | other rx c => exact ⟨hwf, hrest, hg⟩
    | fail | hang => exact ⟨hc, hrest, hg⟩

theorem busPrim (h : s.chipOk) {tx : List Byte} {n : Nat} {f : List Byte → Locals}
    (ht : (busPrim tx n f s).state = some t) : t.chipOk := by
  have hb := h.busOutcome tx n
  unfold Machine.busPrim txn at ht
  cases hx : Machine.busOutcome tx n s <;> rw [hx] at ht hb <;> cases ht <;> exact hb.congr rfl rfl rfl

theorem execPrim (h : s.chipOk) {ag : Agent} {p : Prim} {l : Locals} (ht : (execPrim ag p l s).state = some t) :
    t.chipOk := by
  cases p
  case memRead | writeField | writeAddr | clearRxReady | writeTx | readRx => exact h.busPrim ht
  case acquire | checkFaulted | checkUninitialized | checkReceive | deliverOrDrop =>
    simp only [Machine.execPrim] at ht
    split at ht <;> cases ht <;> exact h.congr rfl rfl rfl
  case ceAfterSend | route => cases ht; split <;> exact h.congr rfl rfl rfl
  case respond => cases ag <;> cases ht <;> exact h.congr rfl rfl rfl
  case delay d =>
    cases ht
    cases d with
    | ceHold => exact (h.setChip (Chip.wf_noteHold h.1 _ _)).congr rfl rfl rfl
    | initSettle => exact h.congr rfl rfl rfl
  all_goals cases ht; exact h.congr rfl rfl rfl

theorem advance (h : s.chipOk) (ag : Agent) : (advance ag s).chipOk := by
  have hform := advance_form ag s
  generalize Machine.advance ag s = t at hform ⊢
  cases hform with
  | rests => exact h
  | performs o _ ht => exact (h.execPrim ht).setSeq ag o
  | returns op c o =>
    refine (h.congr ?_ ?_ ?_ : (returnCode ag op c s).chipOk).setSeq ag o <;> rw [returnCode_eq]
  | frees o => exact State.chipOk.setSeq (s := s.setLock .free) h ag o
  | ends o => exact h.setSeq ag o

/-- The reference chip receives into a FIFO with room only (20_memory.md R113). -/
theorem receive (h : s.chipOk) (p : BitVec 3) (d : List Byte) : (receive p d s).chipOk := by
  obtain ⟨-, -, htx, hheld⟩ := (Chip.wf_iff _).mp h.1
  unfold Machine.receive
  split
  · next hc =>
    have hroom : s.chip.rxFifo.length < 3 := by
      simp only [Chip.canReceive, Bool.and_eq_true, decide_eq_true_eq] at hc
      tauto
    exact h.setChip (Chip.wf_withStatus h.1 (by rwa [List.length_append]) htx hheld _ _)
  · exact h

/-- A payload that leaves the TX FIFO was a held one (R115, log entry 14). -/
theorem transmit (h : s.chipOk) (sent : Bool) : (transmit sent s).chipOk := by
  obtain ⟨-, hrx, htx, hheld⟩ := (Chip.wf_iff _).mp h.1
  unfold Machine.transmit
  split
  · next n d rest hn hd =>
    rw [hd, List.length_cons] at htx hheld
    exact h.setChip (Chip.wf_withStatus h.1 hrx (by omega) (by omega) _ _)
  · exact h

theorem outside (h : s.chipOk) {i : Input} (hi : i.wf = true) (hu : Outside i s t) : t.chipOk := by
  cases hu with
  | nothing => exact h
  | answers r a c => exact h.congr rfl rfl rfl
  | wire tx n rx => exact (h.busOutcome tx n).congr rfl rfl rfl
  | samples level => unfold sampleIrq; split <;> exact h.congr rfl rfl rfl
  | receives p d => exact h.receive p d
  | holds => exact h.setChip (Chip.wf_noteHold h.1 _ _)
  | transmits sent => exact h.transmit sent
  | changes he =>
    subst he
    exact h.setChip hi

end State.chipOk

/-- Settles O55: the reference chip's answers and events keep it canonical, and the environment's chips are. -/
theorem stepKeepsTheChipCanonical : Obligations.StepKeepsTheChipCanonical := by
  intro s t hs h
  have taken {i : Input} {rest : List Input} (ha : s.agenda = i :: rest) :
      i.wf = true ∧ State.chipOk { s with agenda := rest } := by
    obtain ⟨hc, hans, hg⟩ := hs
    exact ⟨hg i (by simp [ha]), hc, hans, fun j hj => hg j (by simp [ha, hj])⟩
  refine step_induction h hs (fun i rest u ha hu => ?_) (fun i rest r a j c ha _ => ?_) fun ag u hu => hu.advance ag
  · obtain ⟨hi, hv⟩ := taken ha
    exact hv.outside hi hu
  · exact ((taken ha).2.congr rfl rfl rfl : State.chipOk { s with agenda := rest, requester := r }).setSeq _ _

end Sys2Proof.Machine
end

section
/-! PROOFS. Every step keeps ConfiguredTx inside a SEND (42_transmit_receive.md R230, 60_exceptions.md R329). -/

namespace Sys2Proof.Machine

open Sys2Proof Sys2Proof.Claims

/-! ### SEND's time in Transmit, as a phase of a program -/

/-- Where an operation stands to SEND's switch to Transmit and its switch back (R230, R231). -/
inductive Switch where
  | before
  | transmitting
  | after
deriving DecidableEq

/-- The primitives that may stand between the two switches: they keep the exclusion and check nothing. -/
def Prim.mayTransmit : Prim → Bool
  | .acquire | .takeEdge | .respond _ | .deliverOrDrop => false
  | .checkFaulted | .checkUninitialized | .checkReceive => false
  | _ => true

/-- Where it stands after a primitive, none where the primitive has no place. -/
def Switch.next (σ : Switch) (p : Prim) : Option Switch :=
  match p with
  | .setFsm .configuredTx => if σ = .before then some .transmitting else none
  | .setFsm .configuredRx => some .after
  | .setFsm .uninitialized => none
  | p => if σ = .transmitting ∧ p.mayTransmit = false then none else some σ

/-- Every program passes its switches in order and does not end between them. -/
theorem programOf_switches (op : Op) :
    ∃ σ, (programOf op).foldlM Switch.next .before = some σ ∧ σ ≠ .transmitting := by
  cases op with
  | drain => exact ⟨_, rfl, nofun⟩
  | instr i => cases i <;> exact ⟨_, rfl, nofun⟩

/-- Where an operation stands at index `k` of its program. -/
def Op.switchAt (op : Op) (k : Nat) : Option Switch := ((programOf op).take k).foldlM Switch.next .before

theorem Op.switchAt_isSome (op : Op) (k : Nat) : ∃ σ, op.switchAt k = some σ := by
  obtain ⟨τ, h, -⟩ := programOf_switches op
  rw [← List.take_append_drop k (programOf op), List.foldlM_append] at h
  obtain ⟨σ, hσ, -⟩ := Option.bind_eq_some_iff.mp h
  exact ⟨σ, hσ⟩

/-- A primitive leads from where its operation stands to where it stands at the next index. -/
theorem Op.switchAt_succ {op : Op} {k : Nat} {p : Prim} (hp : (programOf op)[k]? = some p) :
    ∃ σ σ', op.switchAt k = some σ ∧ op.switchAt (k + 1) = some σ' ∧ σ.next p = some σ' := by
  obtain ⟨σ, hσ⟩ := op.switchAt_isSome k
  obtain ⟨σ', hσ'⟩ := op.switchAt_isSome (k + 1)
  refine ⟨σ, σ', hσ, hσ', ?_⟩
  rw [Op.switchAt, List.take_add_one, hp, List.foldlM_append, ← Op.switchAt, hσ] at hσ'
  simpa using hσ'

theorem Op.switchAt_end {op : Op} {k : Nat} (hk : (programOf op).length ≤ k) : op.switchAt k ≠ some .transmitting := by
  obtain ⟨τ, h, hτ⟩ := programOf_switches op
  rw [Op.switchAt, List.take_of_length_le hk, h]
  simpa using hτ

/-- Any other primitive leaves an operation where it stands. -/
theorem Switch.next_of_ne {σ σ' : Switch} {p : Prim} (hp : ∀ f, p ≠ .setFsm f) (h : σ.next p = some σ') :
    σ' = σ ∧ (σ = .transmitting → p.mayTransmit = true) := by
  unfold Switch.next at h
  split at h
  · exact absurd rfl (hp _)
  · exact absurd rfl (hp _)
  · exact absurd rfl (hp _)
  · split at h
    · cases h
    · next hn => cases h; simpa using hn

/-- Between its switches an operation holds the exclusion. -/
theorem Switch.phase_of_transmitting {σ : Switch} {p : Prim} (h : Switch.next .transmitting p = some σ) :
    p.phase = .inside := by
  cases p
  case acquire | takeEdge | respond | deliverOrDrop => cases h
  all_goals rfl

/-- Where an operation stands says which of the two switches it has passed. -/
theorem Switch.foldlM_next_iff {past : List Prim} {σ : Switch} (h : past.foldlM Switch.next .before = some σ) :
    σ = .transmitting ↔ .setFsm .configuredTx ∈ past ∧ .setFsm .configuredRx ∉ past := by
  suffices hσ : (.setFsm .configuredRx ∈ past ↔ σ = .after) ∧ (.setFsm .configuredTx ∈ past → σ ≠ .before) ∧
      (σ = .transmitting → .setFsm .configuredTx ∈ past) by
    obtain ⟨hrx, htx, hin⟩ := hσ
    rw [hrx]
    refine ⟨fun e => ⟨hin e, by simp [e]⟩, fun ⟨hmem, hne⟩ => ?_⟩
    have := htx hmem
    cases σ <;> simp_all
  induction past using List.reverseRecOn generalizing σ with
  | nil => cases h; simp
  | append_singleton past p ih =>
    simp only [List.foldlM_append, List.foldlM_cons, List.foldlM_nil, bind_pure] at h
    obtain ⟨ρ, hρ, hp⟩ := Option.bind_eq_some_iff.mp h
    obtain ⟨ihrx, ihtx, ihin⟩ := ih hρ
    simp only [List.mem_append, List.mem_singleton]
    by_cases hf : ∃ f, p = .setFsm f
    · obtain ⟨f, rfl⟩ := hf
      cases f with
      | uninitialized => cases hp
      | configuredRx => cases hp; simp
      | configuredTx =>
        by_cases e : ρ = .before
        · subst e
          cases hp
          simpa using ihrx
        · simp [Switch.next, e] at hp
    · have hne : ∀ f, p ≠ .setFsm f := fun f e => hf ⟨f, e⟩
      obtain ⟨rfl, -⟩ := Switch.next_of_ne hne hp
      simpa [(hne _).symm] using ⟨ihrx, ihtx, ihin⟩

theorem Busy.transmitting_iff_past {b : Busy} (hc : b.course = .main ∨ b.course = .hung) :
    b.transmitting = true ↔ .setFsm .configuredTx ∈ b.past ∧ .setFsm .configuredRx ∉ b.past := by
  rcases hc with hc | hc <;> simp [Busy.transmitting, hc]

theorem Busy.transmitting_iff {b : Busy} (hc : b.course = .main ∨ b.course = .hung) :
    b.transmitting = true ↔ b.op.switchAt b.step = some .transmitting := by
  obtain ⟨σ, hσ⟩ := b.op.switchAt_isSome b.step
  rw [Busy.transmitting_iff_past hc, Busy.past, ← Switch.foldlM_next_iff hσ, hσ, Option.some.injEq]

/-- An agent between the two switches holds the exclusion. -/
theorem Busy.holds_of_transmitting {b : Busy} (h : b.transmitting = true) : b.holds = true := by
  cases hc : b.course with
  | raised | returning | delivering => simp [Busy.transmitting, hc] at h
  | hung => simp [Busy.holds, hc]
  | main =>
    rw [Busy.transmitting_iff (.inl hc)] at h
    cases hp : (programOf b.op)[b.step]? with
    | none => exact absurd h (Op.switchAt_end (List.getElem?_eq_none_iff.mp hp))
    | some p =>
      obtain ⟨σ, σ', hσ, -, hnext⟩ := Op.switchAt_succ hp
      obtain rfl : σ = .transmitting := Option.some.inj (hσ.symm.trans h)
      rw [Busy.holds_iff_inside hc (Op.phaseAt_getElem hp).1]
      exact Switch.phase_of_transmitting hnext

/-! ### Moves -/

/-- ConfiguredTx is accounted for while agent `ag` is on its way: by the fault, by `ag` itself if `own`, or by the
sequencer of another agent. -/
def State.TransmitFor (s : State) (ag : Agent) (own : Prop) : Prop :=
  s.fsm = .configuredTx → s.faulted = true ∨ own ∨
    ∃ ag' b, ag' ≠ ag ∧ s.seqOf ag' = some b ∧ b.transmitting = true

theorem State.transmitOk.of_seqOf {s : State} {ag : Agent} (h : s.transmitOk) :
    s.TransmitFor ag (∃ b, s.seqOf ag = some b ∧ b.transmitting = true) := by
  intro hm
  refine (h hm).imp_right fun ⟨ag', b, hb, ht⟩ => ?_
  by_cases e : ag' = ag
  · subst e
    exact .inl ⟨b, hb, ht⟩
  · exact .inr ⟨ag', b, e, hb, ht⟩

namespace State.TransmitFor

variable {s t : State} {ag : Agent} {own own' : Prop}

theorem setSeq {o : Option Busy} (h : s.TransmitFor ag own) (ho : own → ∃ b, o = some b ∧ b.transmitting = true) :
    (s.setSeq ag o).transmitOk := by
  intro hm
  rw [State.setSeq_fsm] at hm
  rw [State.setSeq_faulted]
  refine (h hm).imp_right ?_
  rintro (hown | ⟨ag', b, hne, hb, ht⟩)
  · obtain ⟨b, rfl, ht⟩ := ho hown
    exact ⟨ag, b, State.seqOf_setSeq_self _ _ _, ht⟩
  · exact ⟨ag', b, by rwa [State.seqOf_setSeq_ne s o hne], ht⟩

/-- Without the agent's own account its sequencer may become anything. -/
theorem setSeq_of_not (h : s.TransmitFor ag False) (o : Option Busy) : (s.setSeq ag o).transmitOk := h.setSeq False.elim

theorem mono (h : s.TransmitFor ag own) (ho : own → own') : s.TransmitFor ag own' :=
  fun hm => (h hm).imp_right (Or.imp_left ho)

theorem congr (h : s.TransmitFor ag own) (hf : t.faulted = s.faulted) (hm : t.fsm = s.fsm)
    (hs : ∀ ag', t.seqOf ag' = s.seqOf ag') : t.TransmitFor ag own := by
  unfold State.TransmitFor at h ⊢
  simpa only [hf, hm, hs] using h

/-- A primitive that does not set the mode leaves the account as it is. -/
theorem of_execPrim {p : Prim} {l : Locals} (h : s.TransmitFor ag own) (hp : ∀ f, p ≠ .setFsm f)
    (ht : (execPrim ag p l s).state = some t) : t.TransmitFor ag own := by
  have hf := ProgramFrame.of_execPrim ht
  have hno : ∀ f, .setFsm f ∉ [p] := fun f hmem => hp f (List.mem_singleton.mp hmem).symm
  intro hm
  rw [hf.fsm hno] at hm
  refine (h hm).imp hf.faulted (Or.imp_right ?_)
  simp only [(execPrim_frame ht).seqOf]
  exact id

/-- A primitive that completes between the switches leaves its agent there, but for the switch back. -/
theorem of_execPrim_done {op : Op} {k : Nat} {p : Prim} {l l' : Locals}
    (h : s.TransmitFor ag (op.switchAt k = some .transmitting)) (hp : (programOf op)[k]? = some p)
    (he : execPrim ag p l s = .done l' t) : t.TransmitFor ag (op.switchAt (k + 1) = some .transmitting) := by
  obtain ⟨σ, σ', hσ, hσ', hnext⟩ := Op.switchAt_succ hp
  by_cases hf : ∃ f, p = .setFsm f
  · obtain ⟨f, rfl⟩ := hf
    cases he
    rintro rfl
    refine .inr (.inl ?_)
    by_cases e : σ = .before
    · simp only [Switch.next, e, if_true] at hnext
      exact hσ'.trans hnext.symm
    · simp [Switch.next, e] at hnext
  · have hne : ∀ f, p ≠ .setFsm f := fun f e => hf ⟨f, e⟩
    obtain ⟨rfl, -⟩ := Switch.next_of_ne hne hnext
    rw [hσ', ← hσ]
    exact h.of_execPrim hne (by rw [he]; rfl)

/-- One that may not stand between the switches has no account of its own to lose. -/
theorem of_not_mayTransmit {op : Op} {k : Nat} {p : Prim} {l : Locals}
    (h : s.TransmitFor ag (op.switchAt k = some .transmitting)) (hp : (programOf op)[k]? = some p)
    (hm : p.mayTransmit = false) (ht : (execPrim ag p l s).state = some t) : t.TransmitFor ag False := by
  have hne : ∀ f, p ≠ .setFsm f := by
    rintro f rfl
    cases hm
  obtain ⟨σ, σ', hσ, -, hnext⟩ := Op.switchAt_succ hp
  refine (h.mono fun e => ?_).of_execPrim hne ht
  obtain rfl : σ = .transmitting := Option.some.inj (hσ.symm.trans e)
  exact Bool.false_ne_true (hm.symm.trans ((Switch.next_of_ne hne hnext).2 rfl))

end State.TransmitFor

/-- A primitive raises a code because it checks, or it faults the block. -/
theorem execPrim_raise_cases {ag : Agent} {p : Prim} {l : Locals} {s t : State} {c : Status}
    (h : execPrim ag p l s = .raise c t) : p.mayTransmit = false ∨ t.faulted = true := by
  cases p
  case checkFaulted | checkUninitialized | checkReceive => exact .inl rfl
  case memRead | writeField | writeAddr | clearRxReady | writeTx | readRx =>
    obtain ⟨u, -, -, rfl⟩ := busPrim_raise h
    exact .inr rfl
  case acquire | deliverOrDrop =>
    simp only [execPrim] at h
    split at h <;> cases h
  case respond => cases ag <;> cases h
  all_goals cases h

theorem advanceBusy_transmitOk {ag : Agent} {b : Busy} {s : State} (hs : s.transmitOk)
    (h : s.TransmitFor ag (b.transmitting = true)) : (advanceBusy ag b s).transmitOk := by
  have off (hc : b.transmitting = false) : s.TransmitFor ag False := h.mono fun e => by simp [hc] at e
  unfold advanceBusy
  cases hc : b.course with
  | hung => exact hs
  | delivering => exact (off (by simp [Busy.transmitting, hc])).setSeq_of_not _
  | returning c =>
    refine State.TransmitFor.setSeq_of_not (.congr (off (by simp [Busy.transmitting, hc])) ?_ ?_ ?_) none
    · rw [returnCode_eq]
    · rw [returnCode_eq]
    · exact returnCode_seqOf _ _ _ _
  | raised c =>
    have hfree : (s.setLock .free).TransmitFor ag False :=
      (off (by simp [Busy.transmitting, hc])).congr rfl rfl (State.setLock_seqOf _ _)
    dsimp only
    split <;> exact hfree.setSeq_of_not _
  | main =>
    rw [propext (Busy.transmitting_iff (.inl hc))] at h
    dsimp only
    cases hp : (programOf b.op)[b.step]? with
    | none => exact (h.mono (Op.switchAt_end (List.getElem?_eq_none_iff.mp hp))).setSeq_of_not _
    | some p =>
      dsimp only
      cases he : execPrim ag p b.locals s with
      | done l t =>
        have ht := h.of_execPrim_done hp he
        dsimp only
        split
        · exact ht.setSeq fun e => ⟨_, rfl, (Busy.transmitting_iff (.inl rfl)).mpr e⟩
        · next hk => exact (ht.mono (Op.switchAt_end (Nat.not_lt.mp hk))).setSeq_of_not _
      | raise c t =>
        have ht : t.TransmitFor ag False := by
          rcases execPrim_raise_cases he with hm | hf
          · exact h.of_not_mayTransmit hp hm (by rw [he]; rfl)
          · exact fun _ => .inl hf
        exact ht.setSeq_of_not _
      | wait => exact hs
      | hung t =>
        have hne : ∀ f, p ≠ .setFsm f := by
          rintro f rfl
          cases he
        exact (h.of_execPrim hne (by rw [he]; rfl)).setSeq fun e =>
          ⟨_, rfl, (Busy.transmitting_iff (.inr rfl)).mpr e⟩
      | handedOver l t =>
        obtain ⟨rfl, -⟩ := execPrim_handedOver he
        exact (h.of_not_mayTransmit hp rfl (by rw [he]; rfl)).setSeq_of_not _

theorem advance_transmitOk {s : State} (ag : Agent) (hs : s.transmitOk) : (advance ag s).transmitOk := by
  have h := hs.of_seqOf (ag := ag)
  unfold advance
  split
  · next b hb => exact advanceBusy_transmitOk hs (h.mono fun ⟨b', hb', ht⟩ => by simp_all)
  · next hi =>
    have hnone : s.TransmitFor ag False := h.mono fun ⟨b, hb, _⟩ => nomatch hi.symm.trans hb
    split
    · exact hs
    · split
      · exact advanceBusy_transmitOk hs (hnone.mono False.elim)
      · exact hs

/-! ### The step -/

theorem State.transmitOk.of_sameOperations {s t : State} (h : s.transmitOk) (hu : SameOperations s t) :
    t.transmitOk := by
  unfold State.transmitOk at h ⊢
  simpa only [hu.fsm, hu.faulted, hu.seqOf] using h

theorem step_transmitOk {s t : State} (hs : s.transmitOk) (h : step s = .next t) : t.transmitOk := by
  have taken (rest : List Input) (r : Nat) : State.transmitOk { s with agenda := rest, requester := r } :=
    hs.of_sameOperations (.of_eq rfl)
  refine step_induction h hs (fun i rest u _ hu => ?_) (fun i rest r a j c _ hj => ?_)
    fun ag u => advance_transmitOk ag
  · exact (taken rest s.requester).of_sameOperations hu.sameOperations
  · have hi : State.seqOf { s with agenda := rest, requester := r } (.host a) = none :=
      ((State.takesFrom_iff _ _).mp hj.takes).2
    exact ((taken rest r).of_seqOf.mono fun ⟨b, hb, _⟩ => nomatch hi.symm.trans hb).setSeq_of_not _

/-- Settles O57: the switch to Transmit and the switch back are the only ones, and nothing between them ends SEND but a
fault; between them SEND holds the exclusion. -/
theorem stepKeepsTransmitInsideSend : Obligations.StepKeepsTransmitInsideSend := by
  refine ⟨fun s t _ hs h => step_transmitOk hs h, fun s hex hs hfree hf hm => ?_⟩
  rcases hs hm with hfaulted | ⟨ag, b, hb, ht⟩
  · exact Bool.false_ne_true (hf.symm.trans hfaulted)
  · have hheld : s.lock = .held ag := (hex ag).mpr ⟨b, hb, b.holds_of_transmitting ht⟩
    exact nomatch hfree.symm.trans hheld

end Sys2Proof.Machine
end

section
/-! PROOFS. Every step keeps the operations in progress valid, and packets have packetSize bytes (10_state.md R41,
42_transmit_receive.md R235, R239). -/

namespace Sys2Proof.Machine

open Sys2Proof Sys2Proof.Claims

/-! ### What the programs are made of -/

theorem instrProgram_no_readRx (i : Instr) :
    ((instrProgram i).all fun p => !decide (p = .readRx) && !decide (p = .checkReceive)) = true := by
  cases i <;> rfl

/-- Only the handler reads the RX payload, checks the mode for it and hands packets off. -/
theorem op_eq_drain_of_mem {op : Op} {p : Prim} (hp : p = .readRx ∨ p = .checkReceive ∨ p = .deliverOrDrop)
    (h : p ∈ programOf op) : op = .drain := by
  cases op with
  | drain => rfl
  | instr i =>
    have hread := List.all_eq_true.mp (instrProgram_no_readRx i) p h
    have hdeliver := List.all_eq_true.mp (instrProgram_no_deliverOrDrop i) p h
    rcases hp with rfl | rfl | rfl <;> simp at hread hdeliver

/-- The handler has checked the mode before it reads the RX payload, and has read it before the hand-off. -/
theorem handlerProgram_order :
    ∀ k ≤ 10, (Prim.readRx ∈ handlerProgram.take k → Prim.checkReceive ∈ handlerProgram.take k) ∧
      (handlerProgram[k]? = some .deliverOrDrop → Prim.readRx ∈ handlerProgram.take k) := by
  decide

theorem Busy.checkReceive_mem_past {b : Busy} (h : Prim.readRx ∈ b.past) : Prim.checkReceive ∈ b.past := by
  obtain ⟨op, k, l, c⟩ := b
  obtain rfl := op_eq_drain_of_mem (.inl rfl) (List.mem_of_mem_take h)
  have hmin : (programOf .drain).take k = handlerProgram.take (min k 10) := List.take_eq_take_min
  rw [Busy.past, hmin] at h ⊢
  exact (handlerProgram_order _ (Nat.min_le_right _ _)).1 h

/-- The hand-off of a packet comes after the payload read. -/
theorem readRx_mem_past_of_deliverOrDrop {b : Busy} (h : (programOf b.op)[b.step]? = some .deliverOrDrop) :
    b.op = .drain ∧ Prim.readRx ∈ b.past := by
  obtain ⟨op, k, l, c⟩ := b
  obtain rfl := op_eq_drain_of_mem (.inr (.inr rfl)) (List.mem_of_getElem? h)
  obtain ⟨hk, -⟩ := List.getElem?_eq_some_iff.mp h
  exact ⟨rfl, (handlerProgram_order k hk.le).2 h⟩

/-- `q` may follow `p`: an INIT writes the packet size right after its mode check (41_device_config.md R192). -/
def Prim.MayCheckBefore (p q : Prim) : Prop :=
  match q with
  | .setPacketSize _ => p = .checkUninitialized
  | _ => True

theorem isChain_checked (op : Op) : (programOf op).IsChain Prim.MayCheckBefore := by
  cases op with
  | drain => repeat constructor
  | instr i => cases i <;> repeat constructor

theorem getElem?_zero_programOf_ne (op : Op) (n : Nat) : (programOf op)[0]? ≠ some (.setPacketSize n) := by
  cases op with
  | drain => nofun
  | instr i => cases i <;> nofun

/-- Neighbours in a chain. -/
theorem rel_of_isChain {R : Prim → Prim → Prop} {ps : List Prim} (h : ps.IsChain R) {k : Nat} {p q : Prim}
    (hp : ps[k]? = some p) (hq : ps[k + 1]? = some q) : R p q := by
  obtain ⟨hk, rfl⟩ := List.getElem?_eq_some_iff.mp hp
  obtain ⟨hk', rfl⟩ := List.getElem?_eq_some_iff.mp hq
  exact List.isChain_iff_getElem.mp h k hk'

theorem Busy.mem_past_succ {op : Op} {k : Nat} {l l' : Locals} {c c' : Course} {p q : Prim}
    (hp : (programOf op)[k]? = some p) :
    q ∈ (Busy.mk op (k + 1) l' c').past ↔ q ∈ (Busy.mk op k l c).past ∨ q = p := by
  simp [Busy.past, List.take_add_one, hp]

/-! ### What an operation has read -/

/-- A primitive that completes and reads nothing keeps the bytes read last. -/
theorem bytes_of_completed {ag : Agent} {p : Prim} {l l' : Locals} {s t : State}
    (hr : ∀ reg n, p ≠ .memRead reg n) (hx : p ≠ .readRx) (h : (execPrim ag p l s).completed = some (l', t)) :
    l'.bytes = l.bytes := by
  have of_bus {tx : List Byte} {n : Nat} (hb : (busPrim tx n (fun _ => l) s).completed = some (l', t)) :
      l'.bytes = l.bytes := by
    obtain ⟨rx, u, e, -⟩ | ⟨u, e, -⟩ | ⟨u, e, -⟩ := busPrim_cases tx n (fun _ => l) s <;> rw [e] at hb <;> cases hb
    rfl
  cases p
  case memRead reg n => exact absurd rfl (hr reg n)
  case readRx => exact absurd rfl hx
  case writeField | writeAddr | clearRxReady | writeTx => exact of_bus h
  case acquire | checkFaulted | checkUninitialized | checkReceive | deliverOrDrop =>
    simp only [execPrim] at h
    split at h <;> cases h <;> rfl
  case respond => cases ag <;> cases h <;> rfl
  all_goals cases h; rfl

/-- A primitive of the handler leaves the packet size. -/
theorem packetSize_of_drain {ag : Agent} {p : Prim} {l : Locals} {s t : State} (hp : p ∈ programOf .drain)
    (h : (execPrim ag p l s).state = some t) : t.packetSize = s.packetSize :=
  (execPrim_frame h).packetSize.resolve_right fun e => by
    rw [e] at hp
    simp [programOf, handlerProgram, bodyDrain] at hp

theorem drain_no_memRead (reg : Reg) (n : Nat) : .memRead reg n ∉ programOf .drain := by
  simp [programOf, handlerProgram, bodyDrain]

/-- The bytes an operation holds are those it is to write back or deliver, from one index to the next. -/
theorem Busy.hasRead.of_completed {ag : Agent} {op : Op} {k : Nat} {p : Prim} {l l' : Locals} {c c' : Course}
    {s t : State} (h : (Busy.mk op k l c).hasRead s.packetSize) (hp : (programOf op)[k]? = some p)
    (he : (execPrim ag p l s).completed = some (l', t)) : (Busy.mk op (k + 1) l' c').hasRead t.packetSize := by
  have hmem := List.mem_of_getElem? hp
  constructor
  · intro reg w a hq
    have hchain := rel_of_isChain (isChain_programOf op) hp hq
    cases hx : execPrim ag p l s with
    | done l'' u =>
      rw [hx] at he
      cases he
      exact readBy_of_execPrim_done hchain hx reg w a rfl
    | handedOver =>
      obtain ⟨rfl, -⟩ := execPrim_handedOver hx
      cases hchain
    | raise | wait | hung =>
      rw [hx] at he
      cases he
  · intro hread
    by_cases hr : p = .readRx
    · subst hr
      cases hx : execPrim ag .readRx l s with
      | done l'' u =>
        rw [hx] at he
        cases he
        obtain ⟨rx, htxn, rfl⟩ := busPrim_done hx
        obtain ⟨hb, -, hlen⟩ := txn_completed htxn
        exact hlen.trans hb.packetSize.symm
      | handedOver => cases (execPrim_handedOver hx).1
      | raise | wait | hung =>
        rw [hx] at he
        cases he
    · have hpast := ((Busy.mem_past_succ (l := l) (c := c) hp).mp hread).resolve_right (Ne.symm hr)
      obtain rfl := op_eq_drain_of_mem (.inl rfl) (List.mem_of_mem_take hpast)
      have hno : ∀ reg n, p ≠ .memRead reg n := by
        rintro reg n rfl
        exact drain_no_memRead reg n hmem
      rw [bytes_of_completed hno hr he, packetSize_of_drain hmem (PrimOut.state_of_completed he)]
      exact h.2 hpast

theorem Busy.hasRead_start (op : Op) (l : Locals) (c : Course) (n : Nat) : (Busy.mk op 0 l c).hasRead n := by
  refine ⟨fun reg w a h => absurd ?_ (head?_programOf_ne op (reg := reg) (w := w) (a := a)), nofun⟩
  rw [List.head?_eq_getElem?]
  exact h

/-! ### Packets -/

/-- A packet the event delivers or drops has `n` bytes. -/
def PacketOf (n : Nat) (e : Event) : Prop := ∀ pkt, e = .deliver pkt ∨ e = .drop pkt → pkt.length = n

/-- The bytes of a packet are those the operation read last (42_transmit_receive.md R235). -/
theorem execPrim_addsPackets {n : Nat} {ag : Agent} {p : Prim} {l : Locals} {s t : State}
    (hn : p = .deliverOrDrop → l.bytes.length = n) (h : (execPrim ag p l s).state = some t) :
    Adds (PacketOf n) s t := by
  by_cases hp : p.phase = .after
  · cases p
    case deliverOrDrop =>
      simp only [execPrim] at h
      split at h <;> cases h <;> exact .of_append_singleton (State.emit_trace s _) (by simp [PacketOf, hn rfl])
    case respond r =>
      cases ag with
      | host a => cases h; exact .of_append_singleton (State.respond_trace s a .ok _) nofun
      | irq => cases h; exact .of_trace_eq rfl
    all_goals cases hp
  · refine (execPrim_adds hp h).mono ?_
    rintro e (hw | ⟨d, -, rfl⟩) pkt hpkt
    · rcases hpkt with rfl | rfl <;> cases hw
    · rcases hpkt with e | e <;> cases e

theorem adds_returnCode {n : Nat} (ag : Agent) (op : Op) (c : Status) (s : State) :
    Adds (PacketOf n) s (returnCode ag op c s) := by
  unfold returnCode
  split
  · split
    · exact .of_append_singleton (State.respond_trace s _ c []) nofun
    · exact .of_trace_eq rfl
  · exact .of_trace_eq rfl

theorem adds_finishRaise {n : Nat} (ag : Agent) (op : Op) (c : Status) (s : State) :
    Adds (PacketOf n) s (finishRaise ag op c s) :=
  Adds.trans (t := s.setLock .free) (.of_trace_eq rfl) (adds_returnCode ag op c _)

theorem adds_setSeq {P : Event → Prop} (ag : Agent) (o : Option Busy) (s : State) : Adds P s (s.setSeq ag o) :=
  .of_trace_eq (State.setSeq_trace s ag o)

/-- A primitive in its place delivers or drops the packet that was read. -/
theorem execPrim_addsPackets_of_hasRead {n : Nat} {ag : Agent} {b : Busy} {p : Prim} {s t : State}
    (h : b.hasRead s.packetSize) (hn : b.op = .drain → s.packetSize = n) (hp : (programOf b.op)[b.step]? = some p)
    (ht : (execPrim ag p b.locals s).state = some t) : Adds (PacketOf n) s t := by
  refine execPrim_addsPackets ?_ ht
  rintro rfl
  obtain ⟨hop, hread⟩ := readRx_mem_past_of_deliverOrDrop hp
  exact (h.2 hread).trans (hn hop)

theorem run_addsPackets {n : Nat} {ag : Agent} {op : Op} {ps : List Prim} {k : Nat} {l : Locals} {s : State}
    (hps : (programOf op).drop k = ps) (h : (Busy.mk op k l .main).hasRead s.packetSize)
    (hn : op = .drain → s.packetSize = n) : Adds (PacketOf n) s (run ag op k ps l s) := by
  induction ps generalizing k l s with
  | nil => exact .of_trace_eq rfl
  | cons p ps ih =>
    have hp : (programOf op)[k]? = some p := by rw [← List.head?_drop, hps]; rfl
    have hps' : (programOf op).drop (k + 1) = ps := by rw [← List.tail_drop, hps]; rfl
    have adds {t : State} (ht : (execPrim ag p l s).state = some t) : Adds (PacketOf n) s t :=
      execPrim_addsPackets_of_hasRead h hn hp ht
    have rest {l' : Locals} {t : State} (he : (execPrim ag p l s).completed = some (l', t)) :
        Adds (PacketOf n) s (run ag op (k + 1) ps l' t) := by
      have ht := PrimOut.state_of_completed he
      refine (adds ht).trans (ih hps' (h.of_completed hp he) ?_)
      rintro rfl
      exact (packetSize_of_drain (List.mem_of_getElem? hp) ht).trans (hn rfl)
    cases he : execPrim ag p l s with
    | done l' t =>
      rw [run_done he]
      exact rest (by rw [he]; rfl)
    | handedOver l' t =>
      rw [run, he]
      exact rest (by rw [he]; rfl)
    | raise c t =>
      rw [run_raise he]
      exact (adds (by rw [he]; rfl)).trans (adds_finishRaise ag op c t)
    | wait =>
      rw [run_wait he]
      exact adds_setSeq ag _ s
    | hung t =>
      rw [run_hung he]
      exact (adds (by rw [he]; rfl)).trans (adds_setSeq ag _ t)

theorem takeInterrupt_addsPackets (s : State) : Adds (PacketOf s.packetSize) s (takeInterrupt s) := by
  rcases takeInterrupt_eq_self_or_pending s with e | ⟨hi, hp⟩
  · exact .of_trace_eq (by rw [e])
  · rw [takeInterrupt_of_pending hi hp]
    exact run_addsPackets rfl (Busy.hasRead_start _ _ _ _) fun _ => rfl

theorem advanceBusy_addsPackets {ag : Agent} {b : Busy} {s : State} (h : b.course = .main → b.hasRead s.packetSize) :
    Adds (PacketOf s.packetSize) s (advanceBusy ag b s) := by
  cases hc : b.course with
  | hung => simp only [advanceBusy, hc]; exact .of_trace_eq rfl
  | delivering => simp only [advanceBusy, hc]; exact adds_setSeq ag none s
  | returning c => simp only [advanceBusy, hc]; exact (adds_returnCode ag b.op c s).trans (adds_setSeq ag none _)
  | raised c => simp only [advanceBusy, hc]; split <;> exact adds_setSeq ag _ (s.setLock .free)
  | main =>
    cases hp : (programOf b.op)[b.step]? with
    | none => simp only [advanceBusy, hc, hp]; exact adds_setSeq ag none s
    | some p =>
      rcases advanceBusy_main (ag := ag) (s := s) hc hp with ⟨o, t, ht, e⟩ | e
      · rw [e]
        exact (execPrim_addsPackets_of_hasRead (h hc) (fun _ => rfl) hp ht).trans (adds_setSeq ag o t)
      · exact .of_trace_eq (by rw [e])

theorem advance_addsPackets {s : State} (hs : s.sequencersOk) (ag : Agent) :
    Adds (PacketOf s.packetSize) s (advance ag s) := by
  unfold advance
  split
  · next b hb =>
    refine advanceBusy_addsPackets fun hc => ?_
    obtain ⟨-, hread, -⟩ := hs ag b hb hc
    exact hread
  · split
    · exact .of_trace_eq rfl
    · split
      · exact advanceBusy_addsPackets fun _ => Busy.hasRead_start _ _ _ _
      · exact .of_trace_eq rfl

/-- Settles O43: a packet is handed off by the handler only, which has read packetSize bytes and changed neither. -/
theorem packetsHavePacketSizeBytes : Obligations.PacketsHavePacketSizeBytes := by
  have of_adds {s t : State} {es : List Event} (h : Adds (PacketOf s.packetSize) s t)
      (ht : t.trace = s.trace ++ es) : ∀ e ∈ es, PacketOf s.packetSize e := by
    obtain ⟨fs, ht', hfs⟩ := h
    obtain rfl : es = fs := List.append_cancel_left (ht.symm.trans ht')
    exact hfs
  refine ⟨fun s es ht => of_adds (takeInterrupt_addsPackets s) ht, fun s t es hs h ht => of_adds ?_ ht⟩
  rcases step_form h with rfl | ⟨i, rest, -, hform⟩
  · exact .of_trace_eq rfl
  cases hform with
  | outside hu =>
    rcases hu.trace with e | ⟨a, c, e⟩
    · exact .of_trace_eq e
    · exact .of_append_singleton e nofun
  | setUp => exact adds_setSeq _ _ { s with agenda := rest }
  | @request a j =>
    exact run_addsPackets (op := .instr j) (s := { s with agenda := rest, requester := a }) rfl
      (Busy.hasRead_start _ _ _ _) nofun
  | handler => exact takeInterrupt_addsPackets { s with agenda := rest }
  | advances ag => exact advance_addsPackets (s := { s with agenda := rest }) hs ag

/-! ### Operations in progress -/

/-- What `State.sequencersOk` says of one operation on its course. -/
def Busy.Valid (b : Busy) (s : State) : Prop :=
  b.op.validated = true ∧ b.hasRead s.packetSize ∧ (Prim.checkReceive ∈ b.past → s.fsm ≠ .uninitialized) ∧
    ∀ n, (programOf b.op)[b.step]? = some (.setPacketSize n) → s.fsm = .uninitialized

theorem State.sequencersOk_iff (s : State) :
    s.sequencersOk ↔ ∀ ag b, s.seqOf ag = some b → b.course = .main → b.Valid s := Iff.rfl

namespace Busy.Valid

variable {ag : Agent} {b : Busy} {s t : State}

theorem congr (h : b.Valid s) (hz : t.packetSize = s.packetSize) (hm : t.fsm = s.fsm) : b.Valid t := by
  unfold Busy.Valid
  rw [hz, hm]
  exact h

/-- An operation of validated operands begins valid. -/
theorem start {op : Op} (hv : op.validated = true) (l : Locals) (c : Course) (s : State) :
    (Busy.mk op 0 l c).Valid s :=
  ⟨hv, Busy.hasRead_start op l c _, nofun, fun n hn => absurd hn (getElem?_zero_programOf_ne op n)⟩

/-- A primitive that completes leaves its operation valid at the next index. -/
theorem of_done {op : Op} {k : Nat} {p : Prim} {l l' : Locals} {c c' : Course} (h : (Busy.mk op k l c).Valid s)
    (hp : (programOf op)[k]? = some p) (he : execPrim ag p l s = .done l' t) : (Busy.mk op (k + 1) l' c').Valid t := by
  obtain ⟨hv, hread, hcheck, -⟩ := h
  have hon : Onward s t := .of_execPrim (List.mem_of_getElem? hp) (by rw [he]; rfl)
  refine ⟨hv, hread.of_completed hp (by rw [he]; rfl), fun hmem => ?_, fun n hn => ?_⟩
  · rcases (Busy.mem_past_succ (l := l) (c := c) hp).mp hmem with hmem | rfl
    · exact hon.fsm (hcheck hmem)
    · simp only [execPrim] at he
      split at he
      · cases he
      · next hno =>
        cases he
        intro e
        exact hno (.inr (by simp [e]))
  · obtain rfl : p = .checkUninitialized := rel_of_isChain (isChain_checked op) hp hn
    simp only [execPrim] at he
    split at he <;> cases he
    assumption

/-- A primitive of one agent leaves the operation of another valid: while it writes the packet size the block is
uninitialised, so no drain is past its mode check, and while it sets the mode no other agent is in its exclusive part. -/
theorem of_other {op : Op} {p : Prim} {l : Locals} (h : b.Valid s) (hc : b.course = .main) (hp : p ∈ programOf op)
    (hsize : ∀ n, p = .setPacketSize n → s.fsm = .uninitialized) (hin : p.phase = .inside → b.holds = false)
    (ht : (execPrim ag p l s).state = some t) : b.Valid t := by
  obtain ⟨hv, hread, hcheck, hinit⟩ := h
  have hf := ProgramFrame.of_execPrim ht
  have hcheck' (hm : Prim.checkReceive ∈ b.past) : t.fsm ≠ .uninitialized :=
    (Onward.of_execPrim hp ht).fsm (hcheck hm)
  by_cases hz : ∃ n, p = .setPacketSize n
  · obtain ⟨n, rfl⟩ := hz
    cases ht
    exact ⟨hv, ⟨hread.1, fun hm => absurd (hsize n rfl) (hcheck (Busy.checkReceive_mem_past hm))⟩, hcheck', hinit⟩
  have hsame : t.packetSize = s.packetSize := hf.packetSize fun n e => hz ⟨n, (List.mem_singleton.mp e).symm⟩
  by_cases hm : ∃ f, p = .setFsm f
  · obtain ⟨f, rfl⟩ := hm
    refine ⟨hv, hsame ▸ hread, hcheck', fun n hn => ?_⟩
    have hholds := (Busy.holds_iff_inside hc (Op.phaseAt_getElem hn).1).mpr rfl
    exact absurd (hholds.symm.trans (hin rfl)) Bool.noConfusion
  · exact congr ⟨hv, hread, hcheck, hinit⟩ hsame (hf.fsm fun f e => hm ⟨f, (List.mem_singleton.mp e).symm⟩)

end Busy.Valid

/-! ### Moves -/

/-- Every operation on its course but `ag`'s is valid. -/
def State.OthersValid (s : State) (ag : Agent) : Prop :=
  ∀ ag' b, ag' ≠ ag → s.seqOf ag' = some b → b.course = .main → b.Valid s

theorem State.sequencersOk.others {s : State} (h : s.sequencersOk) (ag : Agent) : s.OthersValid ag :=
  fun ag' b _ hb hc => h ag' b hb hc

namespace State.OthersValid

variable {s t : State} {ag : Agent}

/-- The agent's own sequencer may become anything that is not a course, or a valid one. -/
theorem setSeq {o : Option Busy} (h : s.OthersValid ag) (ho : ∀ b, o = some b → b.course = .main → b.Valid s) :
    (s.setSeq ag o).sequencersOk := by
  rw [State.sequencersOk_iff]
  intro ag' b hb hc
  have hv : b.Valid s := by
    by_cases e : ag' = ag
    · subst e
      rw [State.seqOf_setSeq_self] at hb
      exact ho b hb hc
    · rw [State.seqOf_setSeq_ne s o e] at hb
      exact h ag' b e hb hc
  exact hv.congr (State.setSeq_packetSize _ _ _) (State.setSeq_fsm _ _ _)

theorem setSeq_none (h : s.OthersValid ag) : (s.setSeq ag none).sequencersOk := h.setSeq (by simp)

theorem congr (h : s.OthersValid ag) (hz : t.packetSize = s.packetSize) (hm : t.fsm = s.fsm)
    (hs : ∀ ag', t.seqOf ag' = s.seqOf ag') : t.OthersValid ag :=
  fun ag' b hne hb hc => (h ag' b hne ((hs ag').symm.trans hb) hc).congr hz hm

/-- A primitive of `ag` leaves the others valid, where `ag` holds the exclusion if it is in its exclusive part. -/
theorem of_execPrim {b : Busy} {p : Prim} (h : s.OthersValid ag) (hex : s.exclusive) (hv : b.Valid s)
    (hp : (programOf b.op)[b.step]? = some p) (hl : p.phase = .inside → s.lock = .held ag)
    (ht : (execPrim ag p b.locals s).state = some t) : t.OthersValid ag := by
  intro ag' b' hne hb hc
  rw [(execPrim_frame ht).seqOf] at hb
  obtain ⟨-, -, -, hinit⟩ := hv
  refine (h ag' b' hne hb hc).of_other hc (List.mem_of_getElem? hp) (fun n e => hinit n (e ▸ hp)) (fun hin => ?_) ht
  by_contra hholds
  have hheld : s.lock = .held ag' := (hex ag').mpr ⟨b', hb, by simpa using hholds⟩
  rw [hl hin, Lock.held.injEq] at hheld
  exact hne hheld.symm

end State.OthersValid

/-- A move of an agent at `b`, whether its sequencer says so already or it is entering its handler. -/
theorem advanceBusy_sequencersOk {ag : Agent} {b : Busy} {s : State} (hex : s.exclusive) (hs : s.sequencersOk)
    (hv : b.course = .main → b.Valid s) (hl : b.holds = true → s.lock = .held ag) :
    (advanceBusy ag b s).sequencersOk := by
  have hothers := hs.others ag
  unfold advanceBusy
  cases hc : b.course with
  | hung => exact hs
  | delivering => exact hothers.setSeq_none
  | returning c =>
    refine (State.OthersValid.congr hothers ?_ ?_ (returnCode_seqOf _ _ _ _)).setSeq_none <;> rw [returnCode_eq]
  | raised c =>
    have hfree : (s.setLock .free).OthersValid ag := hothers.congr rfl rfl (State.setLock_seqOf _ _)
    dsimp only
    split
    · exact hfree.setSeq (by simp)
    · exact hfree.setSeq_none
  | main =>
    dsimp only
    cases hp : (programOf b.op)[b.step]? with
    | none => exact hothers.setSeq_none
    | some p =>
      have hin (hφ : p.phase = .inside) : s.lock = .held ag :=
        hl ((Busy.holds_iff_inside hc (Op.phaseAt_getElem hp).1).mpr hφ)
      have others {t : State} (ht : (execPrim ag p b.locals s).state = some t) : t.OthersValid ag :=
        hothers.of_execPrim hex (hv hc) hp hin ht
      dsimp only
      cases he : execPrim ag p b.locals s with
      | done l t =>
        have hnext : (Busy.mk b.op (b.step + 1) l .main).Valid t := (hv hc).of_done hp he
        dsimp only
        split
        · exact (others (by rw [he]; rfl)).setSeq fun b' e _ => Option.some.inj e ▸ hnext
        · exact (others (by rw [he]; rfl)).setSeq_none
      | raise c t => exact (others (by rw [he]; rfl)).setSeq (by simp)
      | wait => exact hs
      | hung t => exact (others (by rw [he]; rfl)).setSeq (by simp)
      | handedOver l t => exact (others (by rw [he]; rfl)).setSeq (by simp)

/-- A move keeps mutual exclusion and the operations in progress valid. -/
theorem advance_sequencersOk {s : State} (ag : Agent) (hs : s.exclusive ∧ s.sequencersOk) :
    (advance ag s).exclusive ∧ (advance ag s).sequencersOk := by
  obtain ⟨hex, hseq⟩ := hs
  unfold advance
  split
  · next b hb =>
    exact ⟨advanceBusy_exclusive (hex.of_busy hb Iff.rfl) hex,
      advanceBusy_sequencersOk hex hseq (hseq ag b hb) fun hh => (hex ag).mpr ⟨b, hb, hh⟩⟩
  · next hi =>
    split
    · exact ⟨hex, hseq⟩
    · split
      · exact ⟨advanceBusy_exclusive (hex.of_idle hi nofun) hex,
          advanceBusy_sequencersOk hex hseq (fun _ => .start rfl _ _ _) nofun⟩
      · exact ⟨hex, hseq⟩

/-! ### The step -/

theorem State.sequencersOk.of_sameOperations {s t : State} (h : s.sequencersOk) (hu : SameOperations s t) :
    t.sequencersOk :=
  fun ag b hb hc => Busy.Valid.congr (h ag b ((hu.seqOf ag).symm.trans hb) hc) hu.packetSize hu.fsm

theorem begun_exclusive {s : State} {a : Nat} {j : Instr} {c : Course} (hex : s.exclusive) (hj : s.Accepts a j c) :
    (s.begun a j c).exclusive := by
  have hi := ((State.takesFrom_iff _ _).mp hj.takes).2
  refine (hex.of_idle hi not_false).setSeq_some ?_
  rcases hj.course with ⟨rfl, -⟩ | ⟨e, rfl⟩ <;> simp [Busy.holds, Busy.past]

/-- Validation has passed an operation that is set up on its course. -/
theorem begun_sequencersOk {s : State} {a : Nat} {j : Instr} {c : Course} (hz : s.packetSize ≤ Config.payloadMax)
    (hs : s.sequencersOk) (hj : s.Accepts a j c) : (s.begun a j c).sequencersOk := by
  refine (hs.others _).setSeq ?_
  rintro b ⟨⟩ rfl
  rcases hj.course with ⟨-, hc⟩ | ⟨e, hr⟩
  · exact .start (validated_of_checkOf hz hc) _ _ _
  · cases hr

/-- Settles O59: a primitive leaves its own operation valid at the next index, and those of the other agents, because
the exclusion keeps them from where it writes. -/
theorem stepKeepsSequencersValid : Obligations.StepKeepsSequencersValid := by
  intro s t hex hz hs h
  have taken (rest : List Input) (r : Nat) : SameOperations s { s with agenda := rest, requester := r } := .of_eq rfl
  suffices ht : t.exclusive ∧ t.sequencersOk from ht.2
  refine step_induction (Inv := fun u => u.exclusive ∧ u.sequencersOk) h ⟨hex, hs⟩ (fun i rest u _ hu => ?_)
    (fun i rest r a j c _ hj => ?_) fun ag u => advance_sequencersOk ag
  · have hsame := (taken rest s.requester).trans hu.sameOperations
    exact ⟨hex.of_sameOperations hsame, hs.of_sameOperations hsame⟩
  · have hj' : State.Accepts { s with agenda := rest, requester := r } a j c :=
      ⟨hj.takes, hj.course.imp_left fun ⟨hm, hc⟩ => ⟨hm, (checkOf_congr j s rest r).trans hc⟩⟩
    exact ⟨begun_exclusive (hex.of_sameOperations (taken rest r)) hj',
      begun_sequencersOk hz.1 (hs.of_sameOperations (taken rest r)) hj'⟩

end Sys2Proof.Machine
end

section
/-! PROOFS. Frames that decode are the encodings of what they decode to, and a step runs what its frame decodes to
(30_encoding.md R121 to R136). -/

namespace Sys2Proof.Machine

open Sys2Proof Sys2Proof.Claims

/-! ### The other round trip -/

/-- The map's entry at an op code has that op code in its frame (30_encoding.md R125). -/
theorem encode_hostInstr (y : Layout) (op : BitVec 5) (p : BitVec 3) (a : List Byte) :
    encode y (hostInstr op p a) = encodeHost op p a := by
  have hmap : ∀ op : Fin 32, encode y (hostInstr ⟨op⟩ p a) = encodeHost ⟨op⟩ p a := by
    intro op
    fin_cases op <;> rfl
  exact hmap op.toFin

theorem opField_append_pipeField : ∀ hdr : Byte, opField hdr ++ pipeField hdr = hdr := by decide

theorem encode_of_decodeHost {y : Layout} {bytes : List Byte} {i : Instr} (h : decodeHost bytes = .ok i) :
    encode y i = bytes := by
  unfold decodeHost at h
  split at h
  · next hdr l args =>
    split at h
    · next hl =>
      cases h
      rw [encode_hostInstr, encodeHost, opField_append_pipeField, hl, BitVec.ofNat_toNat, BitVec.setWidth_eq]
    · cases h
  · cases h

/-- The command byte is its opcode and the register read from its low bits (R132, R136). -/
theorem opcode_add_wireReg : ∀ b : Byte, (b &&& 0xE0) + (wireReg b (b &&& 0xE0)).setWidth 8 = b := by decide

theorem encodeCmd_wireReg {b opc : Byte} (h : b &&& 0xE0 = opc) (rest : List Byte) :
    encodeCmd opc ((wireReg b opc).setWidth 8) rest = b :: rest := by
  subst h
  rw [encodeCmd, opcode_add_wireReg]

theorem encode_of_decodeWire {y : Layout} {bytes : List Byte} {i : Instr} (h : decodeWire y bytes = .ok i) :
    encode y i = bytes := by
  cases bytes with
  | nil => cases h
  | cons b rest =>
    simp only [decodeWire] at h
    split_ifs at h with hr hnil hw hlen hrx hnil htx hlen <;> cases h
    · rw [hnil]
      exact encodeCmd_wireReg hr []
    · exact encodeCmd_wireReg hw rest
    · rw [hnil, hrx]
      exact encodeCmd_zero _ []
    · rw [htx]
      exact encodeCmd_zero _ rest

/-- Settles O7: both decoders keep every bit of the frame. -/
theorem encodeInvertsDecode : Obligations.EncodeInvertsDecode := by
  intro y p bytes i h
  cases p with
  | host => exact ⟨by rw [Instr.port, decodeHost_isHost h]; rfl, encode_of_decodeHost h⟩
  | wire => exact ⟨by rw [Instr.port, decodeWire_isHost h]; rfl, encode_of_decodeWire h⟩

/-! ### The step -/

/-- Settles O4: the port takes a frame from an Idle agent of the block only, and the wire any frame. -/
theorem stepRunsTheDecodedFrame : Obligations.StepRunsTheDecodedFrame := by
  intro s a bytes rest i
  refine ⟨fun hg ha hi hd => ?_, fun hg hno => ?_, fun hg hd => ?_⟩
  · rw [step_request hg]
    exact runRequest_of_decodes ((State.takesFrom_iff _ a).mpr ⟨ha, hi⟩) hd
  · have ht : State.takesFrom { s with agenda := rest } a = false := by
      rw [Bool.eq_false_iff, Ne, State.takesFrom_iff]
      rintro ⟨ha, hi⟩
      exact hno.elim (fun h => Nat.not_lt.mpr h ha) fun h => h hi
    rcases hg with hg | hg
    · rw [step_request hg]
      exact runRequest_of_not_taken ht bytes
    · simp only [step, hg, runInput, runIssue_of_not_taken ht bytes]
  · simp only [step, hg, runInput, runWire, hd]

end Sys2Proof.Machine
end

section
/-! PROOFS. The reset state: its chip and the invariants (10_state.md R63, 70_reset_and_hazards.md R360). -/

namespace Sys2Proof.Machine

open Sys2Proof

/-- Settles O2: no cell of the reset memory is listed, so every register reads as CHIP_RESET. -/
theorem resetChipReadsAsChipReset : Obligations.ResetChipReadsAsChipReset :=
  ⟨rfl, rfl, rfl, rfl, rfl, rfl, rfl, rfl, rfl, rfl, rfl, rfl, rfl, rfl, by decide, rfl, rfl⟩

theorem State.reset_seqOf (ag : Agent) : State.reset.seqOf ag = none := State.construct_seqOf _ _ _ ag

/-- Settles O60: the reset chip has no cell and empty FIFOs, every agent is Idle and the exclusion is free. -/
theorem resetMeetsTheInvariants : Obligations.ResetMeetsTheInvariants := by
  refine ⟨⟨rfl, nofun, nofun⟩, fun ag => ?_, nofun, Nat.zero_le _, ⟨Nat.zero_le _, fun ag b p a hb => ?_⟩,
    fun n b hb => ?_, fun ag b hb => ?_, Layout.wf_default⟩
  · have hfree : State.reset.lock = .free := rfl
    simp [State.reset_seqOf, hfree]
  · cases (State.reset_seqOf ag).symm.trans hb
  · cases (State.reset_seqOf (.host n)).symm.trans hb
  · cases (State.reset_seqOf ag).symm.trans hb

end Sys2Proof.Machine
end

section
/-! PROOFS. The codec's insertion, consumer registration and address lengths (40_codec.md R170, 42_transmit_receive.md
R234, 43_pipe.md R281). -/

namespace Sys2Proof.Machine

open Sys2Proof Sys2Proof.Claims

theorem Field.getLsbD_put (f : Field) (old val : Byte) (j : Nat) :
    (f.put old val).getLsbD j = if f.mask.getLsbD j then (val <<< f.shift).getLsbD j else old.getLsbD j := by
  rw [Field.put, BitVec.getLsbD_or, BitVec.getLsbD_and, BitVec.getLsbD_and, BitVec.getLsbD_not]
  by_cases hj : j < 8
  · cases f.mask.getLsbD j <;> simp [hj]
  · simp [BitVec.getLsbD_of_ge _ _ (Nat.not_lt.mp hj)]

/-- Settles O39: bit by bit. -/
theorem insertChangesTheMaskOnly : Obligations.InsertChangesTheMaskOnly :=
  fun f old val => ⟨rfl, Field.getLsbD_put f old val⟩

/-- Settles O22: its one primitive sets the flag, and it needs no INIT. -/
theorem registerConsumerSetsTheFlag : Obligations.RegisterConsumerSetsTheFlag := by
  intro s
  refine ⟨rfl, onlyAnswers_faulted rfl rfl, fun ⟨hl, hf⟩ => ?_⟩
  have hc : checkOf (.registerConsumer 0 []) s = none := by
    simp [checkOf, checkRegisterConsumer, firstError_eq_none, deviceFrame_eq, WellFormed.device, faultedCheck_eq, hf]
  rw [exec_host rfl, hc, instrProgram]
  dsimp only
  rw [run_shell hl hf, bodyRegisterConsumer, List.singleton_append, run_registerConsumer, run_release,
    run_respond_nothing, run_nil]
  simp [State.setLock, State.respond, State.emit, ← hl]

/-- Settles O30: the length check is the only one that can fail in a configured block. -/
theorem addressLengthsPassAndFail : Obligations.AddressLengthsPassAndFail := by
  refine fun p a s hs => ⟨fun hp h1 h5 => ?_, fun h2 hp ha => ?_⟩
  · have hp' : p.toNat ≤ 5 := by omega
    have hl : addressLengthCheck p a.length = none :=
      addressLengthCheck_of_legal (by rw [LegalAddressLength, if_pos hp]; exact ⟨h1, h5⟩)
    have hd := decodeHost_pipeSetAddress p (a := a) (by omega)
    refine ⟨?_, fun hr => ⟨_, exec_pipeSetAddress_reference hs hp' hl hr, by simp [afterSet]⟩⟩
    rw [← checkOf_eq_expectedError hd, pipeSetAddress_check hs hp', hl]
  · refine onlyAnswers_of_checkOf rfl ((pipeSetAddress_check hs hp a).trans (addressLengthCheck_of_not_legal ?_))
    rw [LegalAddressLength, if_neg (by omega)]
    omega

end Sys2Proof.Machine
end

section
/-! PROOFS. The wire commands as frames from outside the block (30_encoding.md R138 to R141). -/

namespace Sys2Proof.Machine

open Sys2Proof Sys2Proof.Claims

/-- A wire command is one frame: what becomes of it is all it does (log entry 13). -/
theorem oneFrame_of_wireOp {i : Instr} {tx : List Byte} {n : Nat} {s : State} (h : exec i s = wireOp tx n s) :
    OneFrame i tx n s := by
  refine ⟨h, fun t ht => ?_⟩
  obtain ⟨u, hu, e⟩ := wireOp_eq tx n s
  cases (h.trans hu).symm.trans ht
  exact e

theorem wireOp_of_completed {tx rx : List Byte} {n : Nat} {s t : State} (h : busOutcome tx n s = .completed rx t) :
    wireOp tx n s = .next { t with wireRx := rx } := by
  rw [wireOp, h]

/-- The read of a register of R50 asks for its width (30_encoding.md R138). -/
theorem readLength_of_described {y : Layout} {r : BitVec 5} (h : WellFormed.widthOf y r ≠ 0) :
    readLength y r = WellFormed.widthOf y r := by
  rw [readLength, regWidth_eq, if_neg h]

/-- Settles O32: the reference chip returns the register's bytes. -/
theorem readRegisterReturnsTheRegister : Obligations.ReadRegisterReturnsTheRegister := by
  intro r s hr
  have hexec : exec (.rRegister r) s =
      wireOp [s.layout.opcRRegister + r.setWidth 8] (WellFormed.widthOf s.layout r) s := by
    rw [← readLength_of_described hr]
    rfl
  refine ⟨fun hy => decodeWire_read hy r, oneFrame_of_wireOp hexec, fun ⟨ha, hy⟩ => ?_⟩
  have hread := busOutcome_read ha hy r
  rw [regWidth_eq] at hread
  exact hexec.trans (wireOp_of_completed hread)

theorem length_le_of_eq_widthOf {y : Layout} {r : BitVec 5} {v : List Byte}
    (h : v.length = WellFormed.widthOf y r) : v.length ≤ Config.payloadMax :=
  h.trans_le ((Laws.FrameLength.widthOf_le y r).trans (by decide))

/-- Settles O33: the reference chip takes the register write. -/
theorem writeRegisterWritesTheRegister : Obligations.WriteRegisterWritesTheRegister := by
  intro r v s _ hv
  have hlen := length_le_of_eq_widthOf hv
  refine ⟨fun hy => decodeWire_write hy r v hlen, oneFrame_of_wireOp rfl, fun ⟨ha, hy⟩ => ?_⟩
  exact wireOp_of_completed (busOutcome_write ha hy r v hlen)

/-- The reference chip's answer to the payload read: the head's bytes, and free ones after them (20_memory.md R111). -/
theorem busOutcome_readRx {s : State} (h : s.onReference) (n : Nat) :
    busOutcome [s.layout.opcRRxPayload] n s =
      .completed ((headData s.chip).take n ++ freeBytes s.free (n - (headData s.chip).length))
        { s with chip := afterPop s.chip s.layout, free := s.free + (n - (headData s.chip).length) } := by
  obtain ⟨ha, hy⟩ := h
  rw [busOutcome_reference ha, referenceTxn, ← encodeCmd_zero, chipAnswer, decodeWire_readRx hy]
  simp only [Chip.popRx_eq]
  rfl

/-- Settles O34: the head leaves, and the bytes beyond it are free values. -/
theorem readRxPayloadTakesTheHead : Obligations.ReadRxPayloadTakesTheHead := by
  intro s
  have hexec : exec .rRxPayload s = wireOp [s.layout.opcRRxPayload] s.packetSize s := by
    rw [← encodeCmd_zero]
    rfl
  refine ⟨fun hy => ?_, oneFrame_of_wireOp hexec, fun href => ?_⟩
  · rw [← encodeCmd_zero]
    exact decodeWire_readRx hy
  · exact ⟨_, length_freeBytes _ _, hexec.trans (wireOp_of_completed (busOutcome_readRx href _))⟩

/-- The reference chip takes a payload as `Chip.queue` says (R112). -/
theorem busOutcome_writeTx {s : State} (h : s.onReference) {d : List Byte} (hd : d.length ≤ Config.payloadMax) :
    busOutcome (s.layout.opcWTxPayload :: d) 0 s = .completed []
      { s with
        chip := { s.chip with txFifo := (s.chip.queue s.free d).fifo, held := (s.chip.queue s.free d).held }
        free := s.free + (s.chip.queue s.free d).taken } := by
  obtain ⟨ha, hy⟩ := h
  rw [busOutcome_reference ha, referenceTxn, ← encodeCmd_zero, chipAnswer, decodeWire_writeTx hy d hd]
  dsimp only
  unfold Chip.queue
  split <;> rfl

/-- Settles O35: with room the payload is appended; a full FIFO holds free content. -/
theorem writeTxPayloadAppends : Obligations.WriteTxPayloadAppends := by
  intro d s _ hd
  have hexec : exec (.wTxPayload d) s = wireOp (s.layout.opcWTxPayload :: d) 0 s := by
    rw [← encodeCmd_zero]
    rfl
  refine ⟨fun hy => ?_, oneFrame_of_wireOp hexec, fun href hroom => ?_, fun href hfull => ?_⟩
  · rw [← encodeCmd_zero]
    exact decodeWire_writeTx hy d hd
  · have hb := busOutcome_writeTx href hd
    rw [Chip.queue_of_room hroom] at hb
    exact hexec.trans (wireOp_of_completed hb)
  · have hb := busOutcome_writeTx href hd
    rw [Chip.queue_of_full hfull] at hb
    exact ⟨_, List.length_take_le _ _, hexec.trans (wireOp_of_completed hb)⟩

/-! ### Addresses of no register -/

/-- The reference chip returns no byte of its own from an address of no register (log entry 9). -/
theorem busOutcome_read_undescribed {s : State} (h : s.onReference) {r : BitVec 5}
    (hr : WellFormed.widthOf s.layout r = 0) (n : Nat) :
    busOutcome (encodeCmd s.layout.opcRRegister (r.setWidth 8) []) n s =
      .completed (freeBytes s.free n) { s with free := s.free + n } := by
  obtain ⟨ha, hy⟩ := h
  have hnone : s.chip.readReg s.layout r = [] := by rw [Chip.readReg, regWidth_eq, hr]; rfl
  rw [busOutcome_reference ha, referenceTxn, chipAnswer, decodeWire_read hy]
  simp [hnone, completeTxn, fitRx]

/-- A write there changes nothing. -/
theorem Chip.writeReg_undescribed (c : Chip) {y : Layout} (hy : y.wf = true) {r : BitVec 5}
    (hr : WellFormed.widthOf y r = 0) (v : List Byte) : c.writeReg y r v = c := by
  have hne : r ≠ y.regStatus := by
    rintro rfl
    have hstatus : regWidth y y.regStatus = 1 := regWidth_status hy
    rw [regWidth_eq, hr] at hstatus
    cases hstatus
  rw [Chip.writeReg_of_ne_status c hne, hr, List.take_zero]
  rfl

/-- Settles O36: such an address has no width, so nothing is read from it and nothing written. -/
theorem undescribedRegistersHoldNothing : Obligations.UndescribedRegistersHoldNothing := by
  refine fun r v s hr href => ⟨⟨readLength s.layout r, freeBytes s.free (readLength s.layout r),
    length_freeBytes _ _, ?_⟩, fun hv => ?_⟩
  · exact wireOp_of_completed (busOutcome_read_undescribed href hr _)
  · have hb := busOutcome_write href.1 href.2 r v hv
    rw [Chip.writeReg_undescribed _ href.2 hr] at hb
    exact wireOp_of_completed hb

end Sys2Proof.Machine
end

section
/-! PROOFS. The reference chip's own events: the IRQ line, reception and transmission (20_memory.md R113 to R115). -/

namespace Sys2Proof.Machine

open Sys2Proof Sys2Proof.Claims

/-- Settles O44: the line is high when no flag is set under a clear mask. -/
theorem irqLineIsLowForUnmaskedFlags : Obligations.IrqLineIsLowForUnmaskedFlags := by
  refine ⟨rfl, fun y c => ?_⟩
  simp only [Chip.irqLine, irqLineLevel, Bool.not_eq_false', Bool.or_eq_true, Bool.and_eq_true, Bool.not_eq_true',
    or_assoc]

theorem byteIte_eq_one (b : Bool) : (if b then 1 else 0 : Byte) = 1 ↔ b = true := by cases b <;> decide

theorem byteIte_eq_zero (b : Bool) : (if b then 1 else 0 : Byte) = 0 ↔ b = false := by cases b <;> decide

theorem Chip.isUp_receive_iff (c : Chip) (y : Layout) :
    c.isUp y 1 = true ↔ (c.config y).getLsbD 1 = true ∧ (c.config y).getLsbD y.workingModeBit.toNat = true := by
  rw [Chip.isUp, Bool.and_eq_true, decide_eq_true_eq, decide_eq_true_eq, decodePowerMode_eq, decodeWorkingMode_eq,
    byteIte_eq_one, byteIte_eq_one]

theorem Chip.isUp_transmit_iff (c : Chip) (y : Layout) :
    c.isUp y 0 = true ↔ (c.config y).getLsbD 1 = true ∧ (c.config y).getLsbD y.workingModeBit.toNat = false := by
  rw [Chip.isUp, Bool.and_eq_true, decide_eq_true_eq, decide_eq_true_eq, decodePowerMode_eq, decodeWorkingMode_eq,
    byteIte_eq_one, byteIte_eq_zero]

/-- The conditions of a reception, as R113 lists them. -/
theorem Chip.canReceive_iff (c : Chip) (y : Layout) (ce : Bool) (p : BitVec 3) (d : List Byte) :
    c.canReceive y ce p d = true ↔
      (c.config y).getLsbD 1 = true ∧ (c.config y).getLsbD y.workingModeBit.toNat = true ∧ ce = true ∧
        c.rxFifo.length < 3 ∧ p.toNat ≤ 5 ∧
        (c.regByte y.regEnRxaddr).getLsbD (enabledBit y p).toNat = true ∧
        d.length = ((c.regByte (y.regRxPwP0 + p.setWidth 5) &&& y.payloadSizeField.mask) >>>
          y.payloadSizeField.shift).toNat := by
  rw [Chip.canReceive]
  simp only [Bool.and_eq_true, decide_eq_true_eq, Chip.isUp_receive_iff, decodeEnabled_eq, byteIte_eq_one, and_assoc,
    Nat.lt_succ_iff]
  rfl

/-- STATUS after a reception (R113). -/
theorem Chip.statusOnReception_eq (c : Chip) (y : Layout) (p : BitVec 3) :
    c.statusOnReception y p =
      (if c.rxFifo = [] then withPipeNumber (c.status y) p else c.status y) ||| bitMask y.rxReadyBit := by
  unfold Chip.statusOnReception
  cases c.rxFifo <;> rfl

/-- Settles O45: the conditions of R113, and the state when they hold. -/
theorem receptionFillsTheRxFifo : Obligations.ReceptionFillsTheRxFifo := by
  intro p d s
  dsimp only
  rw [← Chip.canReceive_iff]
  refine ⟨fun h => ?_, fun h => if_neg h⟩
  rw [receive, if_pos h, Chip.statusOnReception_eq]
  rfl

/-- A hold is seen under the conditions of R115 only. -/
theorem Chip.noteHold_eq (c : Chip) (y : Layout) (ce : Bool) :
    c.noteHold y ce = if ce = true ∧ (c.config y).getLsbD 1 = true ∧
      (c.config y).getLsbD y.workingModeBit.toNat = false then { c with held := c.txFifo.length } else c := by
  unfold Chip.noteHold
  refine if_congr ?_ rfl rfl
  rw [Bool.and_eq_true, Chip.isUp_transmit_iff]

theorem transmit_of_no_held {s : State} (h : s.chip.held = 0 ∨ s.chip.txFifo = []) (sent : Bool) :
    transmit sent s = s := by
  unfold transmit
  split
  · next hn hd => simp [hn, hd] at h
  · rfl

theorem transmit_of_held {s : State} {n : Nat} {d : List Byte} {rest : List (List Byte)} (hn : s.chip.held = n + 1)
    (hd : s.chip.txFifo = d :: rest) (sent : Bool) :
    transmit sent s = s.setChip (Chip.withStatus { s.chip with txFifo := rest, held := n } s.layout
      (statusSetTxDone (s.chip.status s.layout) sent)) := by
  unfold transmit
  rw [hn, hd]

/-- Settles O46: the hold and the transmission under the conditions of R115. -/
theorem transmissionTakesTheTxHead : Obligations.TransmissionTakesTheTxHead := by
  refine ⟨fun s => ?_, fun sent s => ⟨fun h => transmit_of_no_held h sent, fun n d rest hn hd => ?_⟩⟩
  · dsimp only
    rw [holdPasses, State.doDelay_chip_ceHold, Chip.noteHold_eq]
    refine ⟨fun h => ?_, fun h => ?_⟩
    · rw [if_pos h]
      exact ⟨rfl, rfl⟩
    · rw [if_neg h]
      exact ⟨rfl, rfl⟩
  · rw [transmit_of_held hn hd]
    rfl

end Sys2Proof.Machine
end

section
/-! PROOFS. A SEND leaves the block, and the reference chip, in Receive (42_transmit_receive.md R232). -/

namespace Sys2Proof.Machine

open Sys2Proof Sys2Proof.Claims

/-- A one-bit field into which 1 is put reads 1. -/
theorem Field.getLsbD_put_bit_one (b : BitVec 3) (old : Byte) :
    ((Field.bit b.toNat).put old 1).getLsbD b.toNat = true := by
  have hbit : (Field.bit b.toNat).mask.getLsbD b.toNat = true ∧
      ((1 : Byte) <<< (Field.bit b.toNat).shift).getLsbD b.toNat = true := by
    revert b
    decide
  rw [Field.getLsbD_put, if_pos hbit.1]
  exact hbit.2

/-! ### In every environment -/

/-- SEND up to the last register write, the write of its switch back to Receive (R231). -/
def sendFront (d : List Byte) : List Prim :=
  [.acquire, .checkFaulted] ++ rmw1 .config .workingMode 0 ++ transmission d ++ [.memRead .config 1]

/-- What SEND does after that write. -/
def sendRest : List Prim := [.setFsm .configuredRx, .ceAfterSend, .release, .respond .nothing]

theorem instrProgram_send (d : List Byte) :
    instrProgram (.send 0 d) = sendFront d ++ [.writeField .config .workingMode 1] ++ sendRest := rfl

theorem phase_ne_after_of_mem_sendFront {d : List Byte} :
    ∀ p ∈ sendFront d ++ [.writeField .config .workingMode 1], p.phase ≠ .after := by
  simp [sendFront, rmw1, transmission, Prim.phase]

theorem run_sendRest {a k : Nat} {op : Op} {l : Locals} {s : State} :
    ∃ ce es, run (.host a) op k sendRest l s =
        { s with fsm := .configuredRx, ce := ce, lock := .free, trace := s.trace ++ es } ∧
      ∀ e ∈ es, ∀ tx n rx, e ≠ .txn tx n rx := by
  rw [sendRest, run_setFsm, run_ceAfterSend, run_release, run_respond_nothing, run_nil]
  split
  · exact ⟨true, [.ce true, .resp a .ok []],
      by simp [State.driveCe, State.emit, State.setLock, State.respond], by simp⟩
  · exact ⟨s.ce, [.resp a .ok []], rfl, by simp⟩

theorem Completes.append {ag : Agent} {ps qs : List Prim} {l l' : Locals} {s t : State}
    (h : Completes ag (ps ++ qs) l s l' t) : ∃ m u, Completes ag ps l s m u ∧ Completes ag qs m u l' t := by
  induction ps generalizing l s with
  | nil => exact ⟨l, s, .nil, h⟩
  | cons p ps ih =>
    cases h with
    | cons hp hps =>
      obtain ⟨m, u, h1, h2⟩ := ih hps
      exact ⟨m, u, .cons hp h1, h2⟩

/-- A completed write of a field of a register is one event. -/
theorem Completes.writeField {ag : Agent} {reg : Reg} {f : FieldName} {v : Byte} {l l' : Locals} {s t : State}
    (h : Completes ag [.writeField reg f v] l s l' t) :
    SameBlock s t ∧ t.trace = s.trace ++ [writeEvent s.layout (s.layout.addr reg)
      [(s.layout.field f).put (l.bytes.headD 0) v]] := by
  cases h with
  | cons hp hps =>
    cases hps
    cases hx : execPrim ag (.writeField reg f v) l s with
    | done l'' u =>
      rw [hx] at hp
      cases hp
      obtain ⟨rx, htxn, -⟩ := busPrim_done hx
      obtain ⟨hb, ht, hrx⟩ := txn_completed htxn
      obtain rfl := List.length_eq_zero_iff.mp hrx
      exact ⟨hb, ht⟩
    | handedOver => cases (execPrim_handedOver hx).1
    | raise | wait | hung =>
      rw [hx] at hp
      cases hp

/-- No primitive raises OK. -/
theorem execPrim_raise_ne_ok {ag : Agent} {p : Prim} {l : Locals} {s t : State} {c : Status}
    (h : execPrim ag p l s = .raise c t) : c ≠ .ok := by
  cases p
  case memRead | writeField | writeAddr | clearRxReady | writeTx | readRx =>
    obtain ⟨u, -, rfl, -⟩ := busPrim_raise h
    nofun
  case acquire | checkFaulted | checkUninitialized | checkReceive | deliverOrDrop =>
    simp only [execPrim] at h
    split at h <;> cases h <;> nofun
  case respond => cases ag <;> cases h
  all_goals cases h

/-- Wire events and delays are no response. -/
theorem not_resp_of_adds {ps : List Prim} {s t : State} {es : List Event} (h : Adds (WireOrDelayOf ps) s t)
    (ht : t.trace = s.trace ++ es) {a : Nat} {c : Status} {d : List Byte} :
    es.getLast? ≠ some (.resp a c d) := by
  obtain ⟨fs, ht', hfs⟩ := h
  obtain rfl : es = fs := List.append_cancel_left (ht.symm.trans ht')
  intro hlast
  rcases hfs _ (List.mem_of_getLast? hlast) with hw | ⟨d, -, e⟩
  · cases hw
  · cases e

/-- A SEND on its course whose last event is the response OK has gone through its program. -/
theorem run_send_ok {d : List Byte} {s t : State} {a : Nat} {es : List Event}
    (h : run (.host a) (.instr (.send 0 d)) 0 (instrProgram (.send 0 d)) Locals.start s = t)
    (ht : t.trace = s.trace ++ es) (hok : es.getLast? = some (.resp a .ok [])) :
    ∃ l u, Completes (.host a) (sendFront d ++ [.writeField .config .workingMode 1]) Locals.start s l u ∧
      ∃ k, t = run (.host a) (.instr (.send 0 d)) k sendRest l u := by
  have hfront {past rest : List Prim} {p q : Prim} (e : sendFront d ++ [.writeField .config .workingMode 1] =
      past ++ p :: rest) (hq : q ∈ past ∨ q = p) : q.phase ≠ .after :=
    phase_ne_after_of_mem_sendFront q (by rw [e]; rcases hq with hq | rfl <;> simp [*])
  have hends := run_append_ends (.host a) (.instr (.send 0 d)) 0
    (sendFront d ++ [.writeField .config .workingMode 1]) sendRest Locals.start s
  rw [← instrProgram_send, h] at hends
  cases hends with
  | goesOn hc => exact ⟨_, _, hc, _, rfl⟩
  | @raises past rest p l u v c hps hc hp =>
    have hlast := congrArg List.getLast? ht
    rw [finishRaise_host, State.respond_trace, List.getLast?_append, List.getLast?_append, hok] at hlast
    simp only [List.getLast?_singleton, Option.some_or, Option.some.injEq, Event.resp.injEq] at hlast
    exact absurd hlast.2.1 (execPrim_raise_ne_ok hp)
  | waits hps hc hp =>
    have hadds := hc.adds fun q hq => hfront hps (.inl hq)
    exact absurd hok (not_resp_of_adds hadds (by rwa [State.setSeq_trace] at ht))
  | @hangs past rest p l u v hps hc hp =>
    have hpast := hc.adds fun q hq => hfront hps (.inl hq)
    have hhung := execPrim_adds (hfront hps (.inr rfl)) (t := v) (by rw [hp]; rfl)
    have hadds := (hpast.mono (WireOrDelayOf.mono (qs := past ++ [p]) (by simp))).trans
      (hhung.mono (WireOrDelayOf.mono (by simp)))
    exact absurd hok (not_resp_of_adds hadds (by rwa [State.setSeq_trace] at ht))

/-- The whole of SEND's program leaves the block in ConfiguredRx and free, its last transaction the write of CONFIG. -/
theorem run_sendRest_of_completes {d : List Byte} {a k : Nat} {op : Op} {l : Locals} {s u : State}
    (h : Completes (.host a) (sendFront d ++ [.writeField .config .workingMode 1]) Locals.start s l u) :
    (run (.host a) op k sendRest l u).fsm = .configuredRx ∧ (run (.host a) op k sendRest l u).lock = .free ∧
      (run (.host a) op k sendRest l u).faulted = s.faulted ∧
      ∃ before old after, (run (.host a) op k sendRest l u).trace = s.trace ++ (before ++
          [writeEvent s.layout s.layout.regConfig [(Field.bit s.layout.workingModeBit.toNat).put old 1]] ++ after) ∧
        ∀ e ∈ after, ∀ tx n rx, e ≠ .txn tx n rx := by
  obtain ⟨m, w, hfront, hwrite⟩ := h.append
  obtain ⟨before, hw, -⟩ := hfront.adds fun q hq => phase_ne_after_of_mem_sendFront q (List.mem_append_left _ hq)
  obtain ⟨hblock, hu⟩ := hwrite.writeField
  have hy : w.layout = s.layout := congrArg Params.layout (ProgramFrame.of_completes hfront).params
  obtain ⟨ce, after, e, hafter⟩ := run_sendRest (a := a) (k := k) (op := op) (l := l) (s := u)
  rw [e]
  refine ⟨rfl, rfl, h.faulted, before, m.bytes.headD 0, after, ?_, hafter⟩
  rw [hu, hw, hy]
  simp [Layout.addr, Layout.field]

/-- Settles O20: only a SEND that has gone through its program returns OK, and its last register write is the switch
back. -/
theorem sendThatReturnsOkEndsInReceive : Obligations.SendThatReturnsOkEndsInReceive := by
  intro d s t es hs hexec ht hok
  rw [exec_host rfl, send_check hs, sendLengthCheck_eq] at hexec
  by_cases hlen : d.length = 0 ∨ s.packetSize < d.length
  · rw [if_pos hlen] at hexec
    cases hexec
    rw [State.respond_trace] at ht
    rw [← List.append_cancel_left ht] at hok
    cases hok
  · rw [if_neg hlen] at hexec
    obtain ⟨l, u, hc, k, hrest⟩ := run_send_ok (Host.Outcome.next.inj hexec) ht hok
    obtain ⟨hfsm, hl, hf, before, old, after, htrace, hafter⟩ :=
      run_sendRest_of_completes (k := k) (op := .instr (.send 0 d)) hc
    rw [← hrest] at hfsm hl hf htrace
    refine ⟨hfsm, hl, hf.trans hs.1.2, before, _, after, ?_, Field.getLsbD_put_bit_one s.layout.workingModeBit old,
      hafter⟩
    exact List.append_cancel_left (ht.symm.trans htrace)

/-! ### With the reference chip -/

/-- The block and the chip are in Receive, the exclusion is free and the block is not faulted. -/
def State.InReceive (s : State) : Prop :=
  s.fsm = .configuredRx ∧ (s.chip.config s.layout).getLsbD s.layout.workingModeBit.toNat = true ∧ s.lock = .free ∧
    s.faulted = false

/-- After a SEND they are (R231). -/
theorem afterSend_inReceive {s : State} (hs : s.ready) (hy : s.layout.wf = true) (d : List Byte)
    (fifo : List (List Byte)) (held taken : Nat) : (afterSend s d fifo held taken).InReceive := by
  refine ⟨rfl, ?_, hs.1, hs.2⟩
  have hconfig (c : Chip) (v : Byte) : (c.writeReg s.layout s.layout.regConfig [v]).config s.layout = v :=
    Chip.regByte_writeReg_self c hy (reg := .config) (by decide) v
  refine Eq.trans (congrArg (BitVec.getLsbD · _) (hconfig _ _)) ?_
  exact Field.getLsbD_put_bit_one s.layout.workingModeBit _

/-- Any number of SENDs, from Receive or at least one, end in Receive. -/
theorem sends_inReceive {payloads : List (List Byte)} {s : State} (hne : payloads ≠ [] ∨ s.InReceive)
    (hs : s.configured) (href : s.onReference) (hmax : s.packetSize ≤ 32)
    (hlen : ∀ d ∈ payloads, 1 ≤ d.length ∧ d.length ≤ s.packetSize) :
    ∃ t, sends payloads s = .next t ∧ t.InReceive := by
  induction payloads generalizing s with
  | nil => exact ⟨s, rfl, hne.resolve_left fun h => h rfl⟩
  | cons d rest ih =>
    obtain ⟨h1, hn⟩ := hlen d (by simp)
    have hc : checkOf (.send 0 d) s = none := by rw [send_check hs, sendLengthCheck_eq, if_neg (by omega)]
    have hexec := exec_send_reference hs.1 href hc (hn.trans hmax) rfl
    have hrx := afterSend_inReceive hs.1 href.2 d (s.chip.queue s.free d).fifo (s.chip.queue s.free d).held
      (s.chip.queue s.free d).taken
    obtain ⟨hfsm, -, hl, hf⟩ := id hrx
    rw [sends, hexec]
    exact ih (.inr hrx) ⟨⟨hl, hf⟩, by rw [hfsm]; nofun⟩ href hmax fun e he => hlen e (by simp [he])

/-- Settles O21: each SEND leaves a configured block in front of the reference chip. -/
theorem sendsInARowEndInReceive : Obligations.SendsInARowEndInReceive :=
  fun _ _ hne hs href hmax hlen => sends_inReceive (.inl hne) hs href hmax hlen

end Sys2Proof.Machine
end
